-- ==== Sys2Proof/Word.lean ====
section
/-! DEFINITION. The widths of the block's data (00_scope.md R9, R10): words, bytes, regions of the buffer memory. -/

namespace Sys2Proof

/-- A 32-bit unsigned value; bit 0 is the least significant (00_scope.md R10). -/
abbrev Word := BitVec 32

/-- One byte of the buffer memory, and the width of the command word's OP, CTX and SRC fields. -/
abbrev Byte := BitVec 8

/-- The region [a, a+n) of the buffer memory, as its base and its size (00_scope.md R18). -/
abbrev Region := Nat × Nat

end Sys2Proof
end

