-- ==== Sys2Proof/Machine/Bits.lean ====
section
/-! DEFINITION. Slicing, field replacement and byte order (00_scope.md R11, R13, R14; 20_memory.md R62), by the
formulas of those rules on unsigned integers. -/

namespace Sys2Proof.Machine

/-- `v[hi:lo]`, zero-extended to a word: floor(v / 2^lo) mod 2^(hi-lo+1) (00_scope.md R11). -/
def slice (v : Word) (hi lo : Nat) : Word :=
  BitVec.ofNat 32 (v.toNat / 2 ^ lo % 2 ^ (hi - lo + 1))

/-- `v[hi:lo] <- f`: exactly bits hi..lo become f mod 2^(hi-lo+1), every other bit stays (00_scope.md R11). -/
def replaceSlice (v : Word) (hi lo : Nat) (f : Word) : Word :=
  BitVec.ofNat 32
    (v.toNat / 2 ^ (hi + 1) * 2 ^ (hi + 1) + f.toNat % 2 ^ (hi - lo + 1) * 2 ^ lo + v.toNat % 2 ^ lo)

/-- The four bytes of a word in memory order: the byte at the lowest address is bits 31:24 (20_memory.md R62). -/
def wordBytes (v : Word) : List Byte :=
  [BitVec.ofNat 8 (v.toNat / 2 ^ 24), BitVec.ofNat 8 (v.toNat / 2 ^ 16), BitVec.ofNat 8 (v.toNat / 2 ^ 8),
    BitVec.ofNat 8 v.toNat]

/-- The word whose bytes in memory order are b0, b1, b2, b3 (20_memory.md R62). -/
def wordOfBytes (b0 b1 b2 b3 : Byte) : Word :=
  BitVec.ofNat 32 (b0.toNat * 2 ^ 24 + b1.toNat * 2 ^ 16 + b2.toNat * 2 ^ 8 + b3.toNat)

/-- Do two regions share an address? An empty region shares none. -/
def overlaps (r q : Region) : Bool :=
  0 < r.2 && 0 < q.2 && r.1 < q.1 + q.2 && q.1 < r.1 + r.2

/-- Is the address in the region? -/
def inRegion (r : Region) (a : Nat) : Bool := r.1 ≤ a && a < r.1 + r.2

end Sys2Proof.Machine
end

