-- ==== Sys2Proof/Config.lean ====
section
/-! DEFINITION. The parameters of the block (00_scope.md R9), and the free values: what the spec leaves to other
agents or leaves unspecified, as constants without a body. -/

namespace Sys2Proof

/-- The parameters that 00_scope.md R9 marks OPEN and that a rule of the block depends on. A State carries them and no
step changes them (10_state.md R50; notes/assumptions/1.md). -/
structure Config where
  /-- N_CTX, the number of contexts. -/
  nCtx : Nat
  /-- HDR_WIN_BASE, the base of the header-window region. -/
  winBase : Nat
  /-- REG_BASE, where the platform places the register port in the host's address map. -/
  regBase : Nat
  /-- The addresses of the buffer memory for which the platform's predicate Mapped is false, as regions. -/
  holes : List Region
deriving DecidableEq, Repr

/-- The parameters of State.reset: those of 95_test_vectors.md's common setup, with Mapped true everywhere, the
default of R9. DESIGN CHOICE (unsafe: notes/assumptions/1.md). -/
def Config.standard : Config :=
  { nCtx := 4, winBase := 0x00080000, regBase := 0, holes := [] }

/-- The allocator's answer number k where the input list of a State holds none: `none` is Fail, `some a` is Ok(a)
(20_memory.md R70: "The answer is a draw"). A free value: nothing is known of it (notes/assumptions/5.md). -/
opaque Config.allocDraw (k : Nat) : Option Word

/-- The bytes that draw number k leaves outside the header windows at a platform reset (10_state.md R49: they "are
unspecified after reset"). A free value (notes/assumptions/4.md). -/
opaque Config.ramAfterReset (k : Nat) : List (Word × Byte)

/-- Pick number j of draw number k among the outcomes of a race (70_reset_and_hazards.md R308: a model "must not choose
one outcome"). A free value (notes/assumptions/7.md). -/
opaque Config.racePick (k j : Nat) : Nat

end Sys2Proof
end

