-- ==== Sys2Proof/Machine/State.lean ====
section
/-! DEFINITION. The state of the machine as plain data (10_state.md R20): the block's registers, contexts and handshake
record, the buffer memory, the allocator's live set, the parameters, and the streams that join the block to the other
agents (00_scope.md R19). Every value at reset is that of 10_state.md R49 or of a log entry named here. -/

namespace Sys2Proof.Machine

/-- Why the machine stops with a fault. -/
inductive Fault where
  /-- Raised by an access of the host or of the datapath to a byte of M that is not mapped or lies past 2^32: the spec
  gives such an access no outcome (20_memory.md R63, R64 speak of commands). Safe (notes/assumptions/9.md). -/
  | agentAccess (a : Nat)
deriving DecidableEq, Repr

/-- Why the machine gives an input no meaning. -/
inductive Refusal where
  /-- Raised by exec's arm for a command without a meaning; no arm does. Safe. -/
  | notModelled (mnemonic : String)
  /-- Raised by a register-port access that is not 32 bits wide or not at a multiple of 4: "a model refuses it"
  (10_state.md R22, 93_implementation_defined.md U2). Safe (notes/assumptions/10.md). -/
  | portAccess (off : BitVec 6)
  /-- Raised by CLONE where the answer lined up for it breaks the allocator's contract: "refuse" (93 U9, 20_memory.md
  R70). Errs toward proving on a platform whose allocator breaks R70: unsafe there (notes/assumptions/5.md). -/
  | allocContract (a : Word)
deriving DecidableEq, Repr

/-- Who holds a packet's storage, the 1-bit register OWN (10_state.md R30, R31). -/
inductive Ownership where
  | borrowed
  | owned
deriving DecidableEq, Repr

/-- The registers of one context (10_state.md R30). -/
structure Ctx where
  /-- HBASE, the address of header byte 0 -/
  hbase : Word
  /-- PADDR, the payload's base address -/
  paddr : Word
  /-- PLEN, the payload's length in bytes -/
  plen : Word
  /-- OCAP, the size of the owned buffer -/
  ocap : Word
  /-- OWN -/
  own : Ownership
deriving DecidableEq, Repr

/-- The handshake record HS[0] to HS[11] under the names of 10_state.md R44, in its order. -/
structure Handshake where
  version : Word
  sockType : Word
  isn : Word
  mss : Word
  flowWin : Word
  reqType : Word
  sockId : Word
  cookie : Word
  peerIp0 : Word
  peerIp1 : Word
  peerIp2 : Word
  peerIp3 : Word
deriving DecidableEq, Repr

/-- The record of reset and of HS_NEW: twelve zero words (10_state.md R49, 43_handshake.md R232). -/
def Handshake.zero : Handshake := ⟨0, 0, 0, 0, 0, 0, 0, 0, 0, 0, 0, 0⟩

/-- The buffer memory: the bytes that differ from what an unlisted address reads as, addresses strictly rising. -/
abbrev Memory := List Host.Cell

/-- One live allocation (20_memory.md R70 (d)): the context it was made for, its base and its size. -/
structure Allocation where
  owner : Nat
  base : Word
  size : Word
deriving DecidableEq, Repr

/-- A transaction of the block with the allocator (20_memory.md R70, R71). -/
inductive AllocEvent where
  /-- Alloc(n) and its answer, `none` for Fail -/
  | alloc (n : Word) (answer : Option Word)
  /-- Free(a) -/
  | free (a : Word)
deriving DecidableEq, Repr

/-- The width of a register-port access (10_state.md R22). -/
inductive AccessWidth where
  | bits8
  | bits16
  | bits32
deriving DecidableEq, Repr

/-- What the other agents do to the block and its memory, one access or event at a time (00_scope.md R19,
20_memory.md R74, 30_encoding.md R104, 70_reset_and_hazards.md R290, R294, R308). Offsets are those of the 64-byte
register space R (10_state.md R21). -/
inductive Input where
  /-- WR: a register-port write of v at an offset -/
  | portWrite (off : BitVec 6) (width : AccessWidth) (v : Word)
  /-- RD: a register-port read -/
  | portRead (off : BitVec 6) (width : AccessWidth)
  /-- MW8, or the datapath storing one byte of a datagram -/
  | memWrite8 (a : Word) (b : Byte)
  /-- MW32: four bytes, big-endian -/
  | memWrite32 (a v : Word)
  /-- MR32 -/
  | memRead32 (a : Word)
  /-- a CMD write of w while other agents store the listed bytes: a race (R308) -/
  | cmdRaced (w : Word) (stores : List (Word × Byte))
  /-- the platform's reset event (R290) -/
  | platformReset
  /-- the platform reclaims the buffers that no OWNED context holds (R292, R294) -/
  | reclaim
deriving DecidableEq, Repr

/-- The state of the machine. -/
structure State where
  /-- the parameters; no step changes them (notes/assumptions/1.md) -/
  cfg : Config
  /-- CMD (10_state.md R25) -/
  cmd : Word
  /-- STATUS.ERR (R27) -/
  err : BitVec 8
  /-- STATUS.ANYERR (R27, R28) -/
  anyErr : Bool
  /-- ARG0 (R23) -/
  arg0 : Word
  /-- ARG1 (R23) -/
  arg1 : Word
  /-- ARG2 (R23) -/
  arg2 : Word
  /-- ARG3 (R23) -/
  arg3 : Word
  /-- RES0 (R26) -/
  res0 : Word
  /-- RES1 (R26) -/
  res1 : Word
  /-- RES2 (R26) -/
  res2 : Word
  /-- RES3 (R26) -/
  res3 : Word
  /-- the contexts, number c at position c (R30) -/
  ctxs : List Ctx
  /-- HS[0] to HS[11] (R44) -/
  hs : Handshake
  /-- SEALED, which STATUS.HS_SEALED shows (R46, R27) -/
  sealed : Bool
  /-- the buffer memory M, the header windows in it (R33, 20_memory.md R60, R67) -/
  mem : Memory
  /-- the allocator's live allocations (20_memory.md R70, R47; notes/assumptions/6.md) -/
  live : List Allocation
  /-- the model's own: the allocator's answers to come, first one first (notes/assumptions/5.md) -/
  allocAnswers : List (Option Word)
  /-- the model's own: the inputs to come, first one first (notes/assumptions/2.md) -/
  inputs : List Input
  /-- the model's own: how many free values have been drawn (notes/assumptions/8.md) -/
  draws : Nat
  /-- the model's own: the values that reads returned to the host, last one first (notes/assumptions/8.md) -/
  hostReads : List Word
  /-- the model's own: the block's transactions with the allocator, last one first (notes/assumptions/8.md) -/
  allocTrace : List AllocEvent
deriving DecidableEq, Repr

/-- Win(c), the base of context c's header window (10_state.md R33, 00_scope.md R14). -/
def winAddr (cfg : Config) (c : Nat) : Nat := cfg.winBase + 32 * c

/-- A context at reset: HBASE = Win(c), everything else 0, BORROWED (10_state.md R49). -/
def Ctx.fresh (cfg : Config) (c : Nat) : Ctx :=
  { hbase := BitVec.ofNat 32 (winAddr cfg c), paddr := 0, plen := 0, ocap := 0, own := .borrowed }

/-- The machine right after reset under given parameters (10_state.md R49, 70_reset_and_hazards.md R291): no byte of
memory listed, nothing live, no input pending. -/
def State.resetOf (cfg : Config) : State :=
  { cfg := cfg, cmd := 0, err := 0, anyErr := false,
    arg0 := 0, arg1 := 0, arg2 := 0, arg3 := 0, res0 := 0, res1 := 0, res2 := 0, res3 := 0,
    ctxs := (List.range cfg.nCtx).map (Ctx.fresh cfg), hs := .zero, sealed := false,
    mem := [], live := [], allocAnswers := [], inputs := [], draws := 0, hostReads := [], allocTrace := [] }

/-- The machine right after reset, under the parameters of notes/assumptions/1.md. -/
def State.reset : State := State.resetOf Config.standard

end Sys2Proof.Machine
end

