-- ==== Sys2Proof/Machine/Flags.lean ====
section
/-! DEFINITION. STATUS and the error codes (10_state.md R27 to R29, 60_exceptions.md R261). The block has no other
flags. -/

namespace Sys2Proof.Machine

/-- The errors of 60_exceptions.md R261. -/
inductive ErrCode where
  /-- E_ILLEGAL: an unassigned opcode or a non-zero unused field -/
  | illegal
  /-- E_CTX: a context number not below N_CTX -/
  | ctx
  /-- E_ARG: an operand the command does not take -/
  | arg
  /-- E_OWNED: the context to be rebound is OWNED -/
  | owned
  /-- E_HS_SEALED: SEALED = 1 -/
  | hsSealed
  /-- E_SHORT: a datagram shorter than a header -/
  | short
  /-- E_HS_CAP: a serialize buffer smaller than the record -/
  | hsCap
  /-- E_HS_SIZE: a deserialize buffer smaller than the record -/
  | hsSize
  /-- E_RANGE: a region that does not fit -/
  | range
  /-- E_BUS: an unmapped address -/
  | bus
  /-- E_ALLOC: the allocator answered Fail -/
  | alloc
deriving DecidableEq, Repr

/-- The code that STATUS.ERR takes (R261). -/
def ErrCode.code : ErrCode → BitVec 8
  | .illegal => 0x01
  | .ctx => 0x02
  | .arg => 0x03
  | .owned => 0x04
  | .hsSealed => 0x05
  | .short => 0x06
  | .hsCap => 0x07
  | .hsSize => 0x08
  | .range => 0x09
  | .bus => 0x0A
  | .alloc => 0x0B

/-- OK, the code of a command that finished (R261). -/
def okCode : BitVec 8 := 0x00

/-- What a read of STATUS returns: ERR in bits 7:0, SEALED in bit 8, ANYERR in bit 9, 0 above (10_state.md R27, R46). -/
def State.statusWord (s : State) : Word :=
  BitVec.ofNat 32 (s.err.toNat + 2 ^ 8 * s.sealed.toNat + 2 ^ 9 * s.anyErr.toNat)

/-- A host write of v to STATUS: bit 9 clears ANYERR, every other bit is ignored (10_state.md R28). -/
def State.writeStatus (s : State) (v : Word) : State :=
  { s with anyErr := s.anyErr && !(slice v 9 9 == 1) }

end Sys2Proof.Machine
end

