-- ==== Sys2Proof/Machine/Memory.lean ====
section
/-! DEFINITION. The list of (address, byte) pairs that holds the buffer memory (20_memory.md R60): what an unlisted
address reads as, reading, writing, and the canonical form. -/

namespace Sys2Proof.Machine

/-- What an unlisted address reads as. 0x00 is the reset value of every window byte (10_state.md R49); for the bytes
outside the windows the spec gives none: DESIGN CHOICE, unsafe (notes/assumptions/3.md). -/
def unlistedByte : Byte := 0

/-- The byte at address a. -/
def Memory.read : Memory → Nat → Byte
  | [], _ => unlistedByte
  | (k, v) :: m, a => if k = a then v else Memory.read m a

/-- The memory whose byte at address a is b, in canonical form if m is. -/
def Memory.write : Memory → Nat → Byte → Memory
  | [], a, b => if b = unlistedByte then [] else [(a, b)]
  | (k, v) :: m, a, b =>
    if a < k then if b = unlistedByte then (k, v) :: m else (a, b) :: (k, v) :: m
    else if a = k then if b = unlistedByte then m else (a, b) :: m
    else (k, v) :: Memory.write m a b

/-- The canonical form: addresses below 2^32 and strictly rising, no entry equal to what an unlisted address reads as. -/
def Memory.wf : Memory → Bool
  | [] => true
  | (a, b) :: m => a < 2 ^ 32 && b != unlistedByte && m.all (fun x => a < x.1) && Memory.wf m

end Sys2Proof.Machine
end

