-- ==== Sys2Proof/Machine/Ops.lean ====
section
/-! DEFINITION. The shared operations: the bytes and words of the buffer memory as every agent sees them, the contexts
and the header words, the handshake record by index, and how a command ends: with an error or finished. -/

namespace Sys2Proof.Machine

/-- The header-window region [HDR_WIN_BASE, HDR_WIN_BASE + 32*N_CTX) (20_memory.md R68). -/
abbrev windowRegion (cfg : Config) : Region := (cfg.winBase, 32 * cfg.nCtx)

/-- Is the address one of the reserved bytes Win(c)+20 to Win(c)+31 (10_state.md R33)? -/
def reservedByte (cfg : Config) (a : Nat) : Bool :=
  inRegion (windowRegion cfg) a && 20 ≤ (a - cfg.winBase) % 32

/-- M[a] as every agent reads it: a reserved window byte reads as 0 (20_memory.md R67). -/
def State.byteAt (s : State) (a : Nat) : Byte :=
  if reservedByte s.cfg a then 0 else s.mem.read a

/-- Storing one byte as every agent does it: a write to a reserved window byte is ignored (20_memory.md R67). -/
def storeByte (cfg : Config) (m : Memory) (a : Nat) (b : Byte) : Memory :=
  if reservedByte cfg a then m else m.write a b

/-- Storing bytes at a, a+1, ... in ascending order (00_scope.md R13). -/
def storeBytes (cfg : Config) : Memory → Nat → List Byte → Memory
  | m, _, [] => m
  | m, a, b :: bs => storeBytes cfg (storeByte cfg m a b) (a + 1) bs

/-- MemWrite of the bytes bs at a (00_scope.md R13). -/
def State.writeBytes (s : State) (a : Nat) (bs : List Byte) : State :=
  { s with mem := storeBytes s.cfg s.mem a bs }

/-- The n bytes M[a], ..., M[a+n-1] in ascending order (00_scope.md R13). -/
def State.readBytes (s : State) : Nat → Nat → List Byte
  | _, 0 => []
  | a, n + 1 => s.byteAt a :: State.readBytes s (a + 1) n

/-- MemRead(a, 4): a word, big-endian, at any byte address (00_scope.md R13, 20_memory.md R62, R65). -/
def State.wordAt (s : State) (a : Nat) : Word :=
  wordOfBytes (s.byteAt a) (s.byteAt (a + 1)) (s.byteAt (a + 2)) (s.byteAt (a + 3))

/-- MemWrite(a, 4, v) (00_scope.md R13). -/
def State.writeWord (s : State) (a : Nat) (v : Word) : State := s.writeBytes a (wordBytes v)

/-- Does Mapped hold for every address of the region, and does it end at or below 2^32 (00_scope.md R13, 20_memory.md
R64)? An empty region is mapped. -/
def mappedRegion (cfg : Config) (r : Region) : Bool :=
  r.1 + r.2 ≤ 2 ^ 32 && cfg.holes.all fun h => !overlaps h r

/-- The registers of context c (10_state.md R30). -/
def State.ctx (s : State) (c : Nat) : Ctx := s.ctxs.getD c (Ctx.fresh s.cfg c)

/-- CTX[c] <- x. -/
def State.setCtx (s : State) (c : Nat) (x : Ctx) : State := { s with ctxs := s.ctxs.set c x }

/-- HdrAddr(c, w) = CTX[c].HBASE + 4*w (00_scope.md R14). -/
def State.hdrAddr (s : State) (c w : Nat) : Nat := (s.ctx c).hbase.toNat + 4 * w

/-- Hdr(c, w): header word w of context c, read where it is stored (00_scope.md R14, 10_state.md R32). -/
def State.hdr (s : State) (c w : Nat) : Word := s.wordAt (s.hdrAddr c w)

/-- SetHdr(c, w, v) (00_scope.md R14). -/
def State.setHdr (s : State) (c w : Nat) (v : Word) : State := s.writeWord (s.hdrAddr c w) v

/-- The twelve words of a handshake record in the order of 10_state.md R44. -/
def Handshake.words (h : Handshake) : List Word :=
  [h.version, h.sockType, h.isn, h.mss, h.flowWin, h.reqType, h.sockId, h.cookie,
    h.peerIp0, h.peerIp1, h.peerIp2, h.peerIp3]

/-- The record whose word k is word k of the list, 0 where the list ends before. -/
def Handshake.ofWords (ws : List Word) : Handshake :=
  ⟨ws.getD 0 0, ws.getD 1 0, ws.getD 2 0, ws.getD 3 0, ws.getD 4 0, ws.getD 5 0, ws.getD 6 0, ws.getD 7 0,
    ws.getD 8 0, ws.getD 9 0, ws.getD 10 0, ws.getD 11 0⟩

/-- HS[k] (10_state.md R44). -/
def Handshake.get (h : Handshake) (k : Nat) : Word := h.words.getD k 0

/-- HS[k] <- v. -/
def Handshake.set (h : Handshake) (k : Nat) (v : Word) : Handshake := .ofWords (h.words.set k v)

/-- `raise E(code)`: STATUS.ERR takes the code, ANYERR is set, nothing else changes (00_scope.md R14, 60_exceptions.md
R262). This is the block's whole taking of an error: there is no trap, nothing is saved (R267), and nothing to return
from (R268). -/
def raise (s : State) (e : ErrCode) : Host.Outcome State Fault Refusal :=
  .next { s with err := e.code, anyErr := true }

/-- `finish`: STATUS.ERR <- 0 after the command's writes, ANYERR as it was (00_scope.md R14, 60_exceptions.md R262). -/
def finish (s : State) : Host.Outcome State Fault Refusal :=
  .next { s with err := okCode }

/-- The error of the first check that failed, in the order given: the command rules list their checks by rising code, so
the lowest code that applies is reported (60_exceptions.md R263). -/
def firstError : List (Bool × ErrCode) → Option ErrCode
  | [] => none
  | (failed, e) :: rest => if failed then some e else firstError rest

/-- A command: every check is made before any write (60_exceptions.md R262). If one fails its error is raised in s; else
the command finishes in the state `done`. -/
def complete (s : State) (checks : List (Bool × ErrCode)) (done : State) : Host.Outcome State Fault Refusal :=
  match firstError checks with
  | some e => raise s e
  | none => finish done

end Sys2Proof.Machine
end

