-- ==== Sys2Proof/Machine/Alloc.lean ====
section
/-! DEFINITION. The allocator as the block meets it (20_memory.md R70, R71): Alloc answers Fail or Ok(a) under a contract,
Free always succeeds. The model takes the contract as an assumption on the answer, so it errs toward proving on a
platform whose allocator breaks it (70_reset_and_hazards.md R306, 93 U9; notes/assumptions/5.md). -/

namespace Sys2Proof.Machine

/-- The regions an answer may not overlap (20_memory.md R70 (c)): the header windows, the live allocations, and every
header and payload region recorded in a context. -/
def allocBusy (s : State) : List Region :=
  windowRegion s.cfg :: (s.live.map (fun l => (l.base.toNat, l.size.toNat)) ++
    s.ctxs.flatMap fun x => [(x.hbase.toNat, 20), (x.paddr.toNat, x.plen.toNat)])

/-- The contract of Ok(a) for a request of n bytes (20_memory.md R70 (a) to (c)). -/
def allocOk (s : State) (n a : Word) : Bool :=
  a.toNat + n.toNat ≤ 2 ^ 32 && mappedRegion s.cfg (a.toNat, n.toNat) &&
    (allocBusy s).all fun r => !overlaps (a.toNat, n.toNat) r

/-- What comes of a request: an answer outside the contract, Fail, or Ok(a), the last two with the state after it. -/
inductive AllocResult where
  | broken (a : Word)
  | failed (s : State)
  | granted (a : Word) (s : State)
deriving DecidableEq, Repr

/-- The answer Fail to Alloc(n). -/
def allocFailed (s : State) (n : Word) : AllocResult :=
  .failed { s with allocTrace := .alloc n none :: s.allocTrace }

/-- The answer Ok(a) to Alloc(n) for a context: [a, a+n) becomes a live allocation of it (20_memory.md R70 (d)). -/
def allocGranted (s : State) (owner : Nat) (n a : Word) : AllocResult :=
  .granted a { s with live := ⟨owner, a, n⟩ :: s.live, allocTrace := .alloc n (some a) :: s.allocTrace }

/-- Alloc(n) for a context (20_memory.md R70). The answer is the first of State.allocAnswers; where none is lined up it
is a free value, drawn under the contract (a drawn address outside the contract is no answer of R70 and counts as
Fail, which R70 always admits). -/
def requestAlloc (s : State) (owner : Nat) (n : Word) : AllocResult :=
  match s.allocAnswers with
  | none :: rest => allocFailed { s with allocAnswers := rest } n
  | some a :: rest =>
    if allocOk s n a then allocGranted { s with allocAnswers := rest } owner n a else .broken a
  | [] =>
    match Config.allocDraw s.draws with
    | none => allocFailed { s with draws := s.draws + 1 } n
    | some a =>
      if allocOk s n a then allocGranted { s with draws := s.draws + 1 } owner n a
      else allocFailed { s with draws := s.draws + 1 } n

/-- Free(a) of an owned buffer: the allocation is live no longer (20_memory.md R71). -/
def State.freeAlloc (s : State) (owner : Nat) (a size : Word) : State :=
  { s with live := s.live.erase ⟨owner, a, size⟩, allocTrace := .free a :: s.allocTrace }

end Sys2Proof.Machine
end

