-- ==== Sys2Proof/Syntax.lean ====
section
/-! DEFINITION. The commands of the block: one constructor for each row of spec/opcode_table.json (30_encoding.md R99).
A context operand is the 8-bit number of the command word (R91); every other operand travels in the ARG registers
(R97), so it is no part of the syntax. -/

namespace Sys2Proof

/-- The 32 commands of 30_encoding.md R99, in the order of its table. -/
inductive Instr where
  /-- GET_FLAG c (40_wireheader.md R121) -/
  | getFlag (ctx : Byte)
  /-- GET_TYPE c (R122) -/
  | getType (ctx : Byte)
  /-- GET_EXTTYPE c (R123) -/
  | getExtType (ctx : Byte)
  /-- GET_SEQNO c (R124) -/
  | getSeqNo (ctx : Byte)
  /-- GET_ACKSEQNO c (R125) -/
  | getAckSeqNo (ctx : Byte)
  /-- GET_MSGBOUNDARY c (R126) -/
  | getMsgBoundary (ctx : Byte)
  /-- GET_MSGORDERFLAG c (R127) -/
  | getMsgOrderFlag (ctx : Byte)
  /-- GET_MSGSEQ c (R128) -/
  | getMsgSeq (ctx : Byte)
  /-- GET_WORD c (R129) -/
  | getWord (ctx : Byte)
  /-- SET_WORD c (R130) -/
  | setWord (ctx : Byte)
  /-- GET_LENGTH c (R131) -/
  | getLength (ctx : Byte)
  /-- SET_LENGTH c (R132) -/
  | setLength (ctx : Byte)
  /-- PACK c with the path bits LP and RP (41_packet.md R161; 30_encoding.md R93) -/
  | pack (ctx : Byte) (lp rp : Bool)
  /-- GET_PACKET_VECTOR c (41_packet.md R162) -/
  | getPacketVector (ctx : Byte)
  /-- CLONE dst, src (R163) -/
  | clone (dst src : Byte)
  /-- BIND c (R164) -/
  | bind (ctx : Byte)
  /-- SET_PAYLOAD c (R165) -/
  | setPayload (ctx : Byte)
  /-- RELEASE c (R166) -/
  | release (ctx : Byte)
  /-- GET_CTX_STATE c (R167) -/
  | getCtxState (ctx : Byte)
  /-- GET_FRAMEID c (42_frame_metadata.md R201) -/
  | getFrameId (ctx : Byte)
  /-- SET_FRAMEID c (R202) -/
  | setFrameId (ctx : Byte)
  /-- GET_CHUNKID c (R203) -/
  | getChunkId (ctx : Byte)
  /-- SET_CHUNKID c (R204) -/
  | setChunkId (ctx : Byte)
  /-- GET_TOTALCHUNKS c (R205) -/
  | getTotalChunks (ctx : Byte)
  /-- SET_TOTALCHUNKS c (R206) -/
  | setTotalChunks (ctx : Byte)
  /-- GET_FRAMEDEADLINE c (R207) -/
  | getFrameDeadline (ctx : Byte)
  /-- SET_FRAMEDEADLINE c (R208) -/
  | setFrameDeadline (ctx : Byte)
  /-- HS_NEW (43_handshake.md R232) -/
  | hsNew
  /-- HS_GET (R233) -/
  | hsGet
  /-- HS_SET (R234) -/
  | hsSet
  /-- HS_SERIALIZE (R235) -/
  | hsSerialize
  /-- HS_DESERIALIZE (R236) -/
  | hsDeserialize
deriving DecidableEq, Repr

end Sys2Proof
end

