-- ==== Sys2Proof/WellFormed.lean ====
section
/-! DEFINITION. What is well formed before the machine runs: the fields of a command word (30_encoding.md R90 to R95),
and the parameters (00_scope.md R9, 20_memory.md R64). Every check is a Bool with a name of its own. -/

namespace Sys2Proof

/-- The fields of a command word as numbers, the arguments of the encoder Enc of 30_encoding.md R95. -/
structure Fields where
  op : Nat
  ctx : Nat
  src : Nat
  lp : Nat
  rp : Nat
deriving DecidableEq, Repr

/-- The opcodes of 30_encoding.md R99 that use a context: the commands of 40_wireheader.md, 41_packet.md and
42_frame_metadata.md (R91). -/
def Fields.usesCtx (f : Fields) : Bool :=
  (0x01 ≤ f.op && f.op ≤ 0x0A) || (0x10 ≤ f.op && f.op ≤ 0x18) || (0x20 ≤ f.op && f.op ≤ 0x27)

/-- The opcodes of the handshake commands, whose CTX must be 0 (R91). -/
def Fields.isHandshake (f : Fields) : Bool := 0x30 ≤ f.op && f.op ≤ 0x34

/-- The opcode is one of those R99 assigns; R100 lists the others. -/
def Fields.opAssigned (f : Fields) : Bool := f.usesCtx || f.isHandshake

/-- CTX is an 8-bit number, and 0 where the opcode uses none (R91, R94). -/
def Fields.ctxOk (f : Fields) : Bool := f.ctx < 256 && (f.usesCtx || f.ctx == 0)

/-- SRC is an 8-bit number, and 0 but for CLONE (R92, R94). -/
def Fields.srcOk (f : Fields) : Bool := f.src < 256 && (f.op == 0x14 || f.src == 0)

/-- LP is one bit, and 0 but for PACK (R93, R94). -/
def Fields.lpOk (f : Fields) : Bool := f.lp < 2 && (f.op == 0x12 || f.lp == 0)

/-- RP is one bit, and 0 but for PACK (R93, R94). -/
def Fields.rpOk (f : Fields) : Bool := f.rp < 2 && (f.op == 0x12 || f.rp == 0)

/-- The fields of a well-formed command word (R94, R95). -/
def Fields.wellFormed (f : Fields) : Bool := f.opAssigned && f.ctxOk && f.srcOk && f.lpOk && f.rpOk

/-- N_CTX is 2 to 256 (00_scope.md R9). -/
def Config.nCtxOk (cfg : Config) : Bool := 2 ≤ cfg.nCtx && cfg.nCtx ≤ 256

/-- HDR_WIN_BASE is a multiple of 32 (R9). -/
def Config.winAligned (cfg : Config) : Bool := cfg.winBase % 32 == 0

/-- The window region ends at or below 2^32 (R9). -/
def Config.winFits (cfg : Config) : Bool := cfg.winBase + 32 * cfg.nCtx ≤ 2 ^ 32

/-- Every address of every header window is mapped (20_memory.md R64). -/
def Config.winMapped (cfg : Config) : Bool :=
  cfg.holes.all fun h => h.2 == 0 || h.1 + h.2 ≤ cfg.winBase || cfg.winBase + 32 * cfg.nCtx ≤ h.1

/-- The bounds that R9 and R64 set on the parameters. -/
def Config.wellFormed (cfg : Config) : Bool :=
  cfg.nCtxOk && cfg.winAligned && cfg.winFits && cfg.winMapped

end Sys2Proof
end

