-- ==== Sys2Proof/Decode.lean ====
section
/-! DEFINITION. Decoding a command word (30_encoding.md R90 to R101): total on the 2^32 words, each either one command
or a rejection with a name; then the encoder, from the same table. -/

namespace Sys2Proof

/-- Why a command word selects no command; the block raises E_ILLEGAL for both (R96). -/
inductive DecodeError where
  /-- OP is not an assigned opcode (R100). -/
  | unassigned (op : Byte)
  /-- A bit outside the row's fields is not as the row has it (R94). -/
  | unusedField (mnemonic : String)
deriving DecidableEq, Repr

/-- One row of the opcode map (R99): the opcode, the mnemonic, the match and the mask of R94, and the command that CTX,
SRC, LP and RP select. -/
structure OpRow where
  op : Byte
  mnemonic : String
  pattern : Word
  mask : Word
  build : Byte → Byte → Bool → Bool → Instr

/-- OP, bits 7:0 (R90). -/
def opField (w : Word) : Byte := BitVec.ofNat 8 w.toNat

/-- CTX, bits 15:8 (R90). -/
def ctxField (w : Word) : Byte := BitVec.ofNat 8 (w.toNat / 2 ^ 8)

/-- SRC, bits 23:16 (R90). -/
def srcField (w : Word) : Byte := BitVec.ofNat 8 (w.toNat / 2 ^ 16)

/-- LP, bit 24 (R90). -/
def lpField (w : Word) : Bool := w.toNat / 2 ^ 24 % 2 == 1

/-- RP, bit 25 (R90). -/
def rpField (w : Word) : Bool := w.toNat / 2 ^ 25 % 2 == 1

/-- The rows of 0x01 to 0x11, the WireHeader accessors. -/
def headerRows : List OpRow :=
  [ ⟨0x01, "GET_FLAG", 0x00000001, 0xFFFF00FF, fun c _ _ _ => .getFlag c⟩,
    ⟨0x02, "GET_TYPE", 0x00000002, 0xFFFF00FF, fun c _ _ _ => .getType c⟩,
    ⟨0x03, "GET_EXTTYPE", 0x00000003, 0xFFFF00FF, fun c _ _ _ => .getExtType c⟩,
    ⟨0x04, "GET_SEQNO", 0x00000004, 0xFFFF00FF, fun c _ _ _ => .getSeqNo c⟩,
    ⟨0x05, "GET_ACKSEQNO", 0x00000005, 0xFFFF00FF, fun c _ _ _ => .getAckSeqNo c⟩,
    ⟨0x06, "GET_MSGBOUNDARY", 0x00000006, 0xFFFF00FF, fun c _ _ _ => .getMsgBoundary c⟩,
    ⟨0x07, "GET_MSGORDERFLAG", 0x00000007, 0xFFFF00FF, fun c _ _ _ => .getMsgOrderFlag c⟩,
    ⟨0x08, "GET_MSGSEQ", 0x00000008, 0xFFFF00FF, fun c _ _ _ => .getMsgSeq c⟩,
    ⟨0x09, "GET_WORD", 0x00000009, 0xFFFF00FF, fun c _ _ _ => .getWord c⟩,
    ⟨0x0A, "SET_WORD", 0x0000000A, 0xFFFF00FF, fun c _ _ _ => .setWord c⟩,
    ⟨0x10, "GET_LENGTH", 0x00000010, 0xFFFF00FF, fun c _ _ _ => .getLength c⟩,
    ⟨0x11, "SET_LENGTH", 0x00000011, 0xFFFF00FF, fun c _ _ _ => .setLength c⟩ ]

/-- The rows of 0x12 to 0x18, the packet commands. -/
def packetRows : List OpRow :=
  [ ⟨0x12, "PACK", 0x00000012, 0xFCFF00FF, fun c _ lp rp => .pack c lp rp⟩,
    ⟨0x13, "GET_PACKET_VECTOR", 0x00000013, 0xFFFF00FF, fun c _ _ _ => .getPacketVector c⟩,
    ⟨0x14, "CLONE", 0x00000014, 0xFF0000FF, fun c s _ _ => .clone c s⟩,
    ⟨0x15, "BIND", 0x00000015, 0xFFFF00FF, fun c _ _ _ => .bind c⟩,
    ⟨0x16, "SET_PAYLOAD", 0x00000016, 0xFFFF00FF, fun c _ _ _ => .setPayload c⟩,
    ⟨0x17, "RELEASE", 0x00000017, 0xFFFF00FF, fun c _ _ _ => .release c⟩,
    ⟨0x18, "GET_CTX_STATE", 0x00000018, 0xFFFF00FF, fun c _ _ _ => .getCtxState c⟩ ]

/-- The rows of 0x20 to 0x27, the frame metadata commands. -/
def frameRows : List OpRow :=
  [ ⟨0x20, "GET_FRAMEID", 0x00000020, 0xFFFF00FF, fun c _ _ _ => .getFrameId c⟩,
    ⟨0x21, "SET_FRAMEID", 0x00000021, 0xFFFF00FF, fun c _ _ _ => .setFrameId c⟩,
    ⟨0x22, "GET_CHUNKID", 0x00000022, 0xFFFF00FF, fun c _ _ _ => .getChunkId c⟩,
    ⟨0x23, "SET_CHUNKID", 0x00000023, 0xFFFF00FF, fun c _ _ _ => .setChunkId c⟩,
    ⟨0x24, "GET_TOTALCHUNKS", 0x00000024, 0xFFFF00FF, fun c _ _ _ => .getTotalChunks c⟩,
    ⟨0x25, "SET_TOTALCHUNKS", 0x00000025, 0xFFFF00FF, fun c _ _ _ => .setTotalChunks c⟩,
    ⟨0x26, "GET_FRAMEDEADLINE", 0x00000026, 0xFFFF00FF, fun c _ _ _ => .getFrameDeadline c⟩,
    ⟨0x27, "SET_FRAMEDEADLINE", 0x00000027, 0xFFFF00FF, fun c _ _ _ => .setFrameDeadline c⟩ ]

/-- The rows of 0x30 to 0x34, the handshake commands. -/
def handshakeRows : List OpRow :=
  [ ⟨0x30, "HS_NEW", 0x00000030, 0xFFFFFFFF, fun _ _ _ _ => .hsNew⟩,
    ⟨0x31, "HS_GET", 0x00000031, 0xFFFFFFFF, fun _ _ _ _ => .hsGet⟩,
    ⟨0x32, "HS_SET", 0x00000032, 0xFFFFFFFF, fun _ _ _ _ => .hsSet⟩,
    ⟨0x33, "HS_SERIALIZE", 0x00000033, 0xFFFFFFFF, fun _ _ _ _ => .hsSerialize⟩,
    ⟨0x34, "HS_DESERIALIZE", 0x00000034, 0xFFFFFFFF, fun _ _ _ _ => .hsDeserialize⟩ ]

/-- The opcode map of R99. -/
def opTable : List OpRow := headerRows ++ packetRows ++ frameRows ++ handshakeRows

/-- Decoding a CMD write (R96): the opcode first, then the match under the mask, then the fields. -/
def decode (w : Word) : Except DecodeError Instr :=
  match opTable.find? (fun r => r.op == opField w) with
  | none => .error (.unassigned (opField w))
  | some r =>
    if w &&& r.mask = r.pattern then .ok (r.build (ctxField w) (srcField w) (lpField w) (rpField w))
    else .error (.unusedField r.mnemonic)

/-- The fields of a command's word (R90, R95, R99). -/
def Instr.fields : Instr → Fields
  | .getFlag c => ⟨0x01, c.toNat, 0, 0, 0⟩
  | .getType c => ⟨0x02, c.toNat, 0, 0, 0⟩
  | .getExtType c => ⟨0x03, c.toNat, 0, 0, 0⟩
  | .getSeqNo c => ⟨0x04, c.toNat, 0, 0, 0⟩
  | .getAckSeqNo c => ⟨0x05, c.toNat, 0, 0, 0⟩
  | .getMsgBoundary c => ⟨0x06, c.toNat, 0, 0, 0⟩
  | .getMsgOrderFlag c => ⟨0x07, c.toNat, 0, 0, 0⟩
  | .getMsgSeq c => ⟨0x08, c.toNat, 0, 0, 0⟩
  | .getWord c => ⟨0x09, c.toNat, 0, 0, 0⟩
  | .setWord c => ⟨0x0A, c.toNat, 0, 0, 0⟩
  | .getLength c => ⟨0x10, c.toNat, 0, 0, 0⟩
  | .setLength c => ⟨0x11, c.toNat, 0, 0, 0⟩
  | .pack c lp rp => ⟨0x12, c.toNat, 0, lp.toNat, rp.toNat⟩
  | .getPacketVector c => ⟨0x13, c.toNat, 0, 0, 0⟩
  | .clone d s => ⟨0x14, d.toNat, s.toNat, 0, 0⟩
  | .bind c => ⟨0x15, c.toNat, 0, 0, 0⟩
  | .setPayload c => ⟨0x16, c.toNat, 0, 0, 0⟩
  | .release c => ⟨0x17, c.toNat, 0, 0, 0⟩
  | .getCtxState c => ⟨0x18, c.toNat, 0, 0, 0⟩
  | .getFrameId c => ⟨0x20, c.toNat, 0, 0, 0⟩
  | .setFrameId c => ⟨0x21, c.toNat, 0, 0, 0⟩
  | .getChunkId c => ⟨0x22, c.toNat, 0, 0, 0⟩
  | .setChunkId c => ⟨0x23, c.toNat, 0, 0, 0⟩
  | .getTotalChunks c => ⟨0x24, c.toNat, 0, 0, 0⟩
  | .setTotalChunks c => ⟨0x25, c.toNat, 0, 0, 0⟩
  | .getFrameDeadline c => ⟨0x26, c.toNat, 0, 0, 0⟩
  | .setFrameDeadline c => ⟨0x27, c.toNat, 0, 0, 0⟩
  | .hsNew => ⟨0x30, 0, 0, 0, 0⟩
  | .hsGet => ⟨0x31, 0, 0, 0, 0⟩
  | .hsSet => ⟨0x32, 0, 0, 0, 0⟩
  | .hsSerialize => ⟨0x33, 0, 0, 0, 0⟩
  | .hsDeserialize => ⟨0x34, 0, 0, 0, 0⟩

/-- Enc(op, ctx, src, lp, rp) of R95, on numbers. -/
def Fields.enc (f : Fields) : Nat :=
  f.op + 256 * f.ctx + 65536 * f.src + 2 ^ 24 * f.lp + 2 ^ 25 * f.rp

/-- The word of a command (R95). -/
def encode (i : Instr) : Word := BitVec.ofNat 32 i.fields.enc

/-- The instruction the decoder reads from the low nbits bits of w, every bit above them 0. A command is one 32-bit
register write (R101), so the word is given to the decoder as it is. -/
def decodeTableWord (nbits w : Nat) : Option Instr :=
  match decode (BitVec.ofNat 32 (w % 2 ^ nbits)) with
  | .ok i => some i
  | .error _ => none

end Sys2Proof
end

