-- ==== Sys2Proof/Machine/Operands.lean ====
section
/-! DEFINITION. The operand forms (30_encoding.md R97, R98): which ARG and RES registers a command uses, and the checks a
context number, an index, a region and an access to memory go through, each with the error it raises. -/

namespace Sys2Proof.Machine

/-- The context number is not below N_CTX: E_CTX (30_encoding.md R91, 60_exceptions.md R261). -/
def noCtx (s : State) (c : Byte) : Bool × ErrCode := (s.cfg.nCtx ≤ c.toNat, .ctx)

/-- An index operand above its bound: E_ARG (30_encoding.md R98). -/
def badIndex (k : Word) (bound : Nat) : Bool × ErrCode := (bound < k.toNat, .arg)

/-- The context to be rebound is OWNED: E_OWNED (41_packet.md R160). -/
def isOwned (s : State) (c : Byte) : Bool × ErrCode := ((s.ctx c.toNat).own == .owned, .owned)

/-- The region of n bytes at a ends above 2^32 (20_memory.md R63): "n > 0 and a + n > 2^32". -/
def pastTop (a : Word) (n : Nat) : Bool := 0 < n && 2 ^ 32 < a.toNat + n

/-- A region does not fit: E_RANGE (20_memory.md R63). -/
def badRange (a : Word) (n : Nat) : Bool × ErrCode := (pastTop a n, .range)

/-- A region the command would access is not mapped: E_BUS (20_memory.md R64). -/
def unmapped (s : State) (a n : Nat) : Bool × ErrCode := (!mappedRegion s.cfg (a, n), .bus)

/-- Header word w of context c is not mapped: E_BUS (40_wireheader.md R120). -/
def noHdr (s : State) (c : Byte) (w : Nat) : Bool × ErrCode := unmapped s (s.hdrAddr c.toNat w) 4

/-- The ARG registers a command reads (30_encoding.md R97). -/
def argsRead : Instr → List (Fin 4)
  | .getWord _ => [0]
  | .setWord _ => [0, 1]
  | .setLength _ => [0]
  | .pack _ lp rp => 0 :: ((if lp then [1] else []) ++ (if rp then [2, 3] else []))
  | .bind _ => [0, 1]
  | .setPayload _ => [0, 1]
  | .setFrameId _ => [0]
  | .setChunkId _ => [0]
  | .setTotalChunks _ => [0]
  | .setFrameDeadline _ => [0]
  | .hsGet => [0]
  | .hsSet => [0, 1]
  | .hsSerialize => [0, 1]
  | .hsDeserialize => [0, 1]
  | .getFlag _ => []
  | .getType _ => []
  | .getExtType _ => []
  | .getSeqNo _ => []
  | .getAckSeqNo _ => []
  | .getMsgBoundary _ => []
  | .getMsgOrderFlag _ => []
  | .getMsgSeq _ => []
  | .getLength _ => []
  | .getPacketVector _ => []
  | .clone _ _ => []
  | .release _ => []
  | .getCtxState _ => []
  | .getFrameId _ => []
  | .getChunkId _ => []
  | .getTotalChunks _ => []
  | .getFrameDeadline _ => []
  | .hsNew => []

/-- The RES registers a command writes when it finishes (30_encoding.md R97). -/
def resWritten : Instr → List (Fin 4)
  | .getFlag _ => [0]
  | .getType _ => [0]
  | .getExtType _ => [0]
  | .getSeqNo _ => [0]
  | .getAckSeqNo _ => [0]
  | .getMsgBoundary _ => [0]
  | .getMsgOrderFlag _ => [0]
  | .getMsgSeq _ => [0]
  | .getWord _ => [0]
  | .getLength _ => [0]
  | .getPacketVector _ => [0, 1, 2, 3]
  | .getCtxState _ => [0, 1]
  | .getFrameId _ => [0]
  | .getChunkId _ => [0]
  | .getTotalChunks _ => [0]
  | .getFrameDeadline _ => [0]
  | .hsGet => [0]
  | .hsSerialize => [0]
  | .hsDeserialize => [0]
  | .setWord _ => []
  | .setLength _ => []
  | .pack _ _ _ => []
  | .clone _ _ => []
  | .bind _ => []
  | .setPayload _ => []
  | .release _ => []
  | .setFrameId _ => []
  | .setChunkId _ => []
  | .setTotalChunks _ => []
  | .setFrameDeadline _ => []
  | .hsNew => []
  | .hsSet => []

/-- ARG[i] (10_state.md R23, 00_scope.md R12). -/
def State.arg (s : State) : Fin 4 → Word
  | 0 => s.arg0
  | 1 => s.arg1
  | 2 => s.arg2
  | 3 => s.arg3

/-- ARG[i] <- v. -/
def State.setArg (s : State) (i : Fin 4) (v : Word) : State :=
  match i with
  | 0 => { s with arg0 := v }
  | 1 => { s with arg1 := v }
  | 2 => { s with arg2 := v }
  | 3 => { s with arg3 := v }

/-- RES[i] (10_state.md R26, 00_scope.md R12). -/
def State.res (s : State) : Fin 4 → Word
  | 0 => s.res0
  | 1 => s.res1
  | 2 => s.res2
  | 3 => s.res3

end Sys2Proof.Machine
end

