-- ==== Sys2Proof/Machine/Port.lean ====
section
/-! DEFINITION. The register port as the host meets it (10_state.md R21 to R28), and the host's expansion of a command
into port writes (30_encoding.md R104). Executing a CMD write is Machine/Issue.lean's. -/

namespace Sys2Proof.Machine

/-- What stands at an offset of the register space (10_state.md R21). -/
inductive PortReg where
  | cmd
  | status
  | arg (i : Fin 4)
  | res (i : Fin 4)
  | reserved
deriving DecidableEq, Repr

/-- The address of an offset in the host's address map (00_scope.md R9); the block does not see it (20_memory.md R61). -/
def portAddr (cfg : Config) (off : BitVec 6) : Nat := cfg.regBase + off.toNat

/-- The register at an offset that is a multiple of 4 (10_state.md R21, R22). -/
def portReg (off : BitVec 6) : PortReg :=
  match off.toNat / 4 with
  | 0 => .cmd
  | 1 => .status
  | 2 => .arg 0
  | 3 => .arg 1
  | 4 => .arg 2
  | 5 => .arg 3
  | 6 => .res 0
  | 7 => .res 1
  | 8 => .res 2
  | 9 => .res 3
  | _ => .reserved

/-- A register-port access that R22 gives a meaning: 32 bits at a multiple of 4. -/
def portAccessOk (off : BitVec 6) (width : AccessWidth) : Bool := width == .bits32 && off.toNat % 4 == 0

/-- The offset of a register of the port (10_state.md R21). -/
def PortReg.offset : PortReg → BitVec 6
  | .cmd => 0x00
  | .status => 0x04
  | .arg i => BitVec.ofNat 6 (0x08 + 4 * i.val)
  | .res i => BitVec.ofNat 6 (0x18 + 4 * i.val)
  | .reserved => 0x28

/-- The value a read of a register returns (10_state.md R21 to R27). -/
def State.portValue (s : State) : PortReg → Word
  | .cmd => s.cmd
  | .status => s.statusWord
  | .arg i => s.arg i
  | .res i => s.res i
  | .reserved => 0

/-- The state after a host write of v to a register other than CMD: STATUS clears ANYERR, ARG takes v, RES and the
reserved offsets ignore it (10_state.md R21, R22, R23, R28). -/
def State.portStore (s : State) (v : Word) : PortReg → State
  | .cmd => { s with cmd := v }
  | .status => s.writeStatus v
  | .arg i => s.setArg i v
  | .res _ => s
  | .reserved => s

/-- A host read: the value joins the host's record of what it read. -/
def State.recordRead (s : State) (v : Word) : State := { s with hostReads := v :: s.hostReads }

/-- WR of a register (30_encoding.md R104). -/
def wr (r : PortReg) (v : Word) : Input := .portWrite r.offset .bits32 v

/-- RD of a register (30_encoding.md R104). -/
def rd (r : PortReg) : Input := .portRead r.offset .bits32

/-- The host accesses that an assembler command expands to: one register write per ARG operand, in ARG order, then one
write of the encoded word to CMD (30_encoding.md R103, R104). -/
def expandCommand (i : Instr) (operands : List Word) : List Input :=
  List.zipWith (fun r v => wr (.arg r) v) (argsRead i) operands ++ [wr .cmd (encode i)]

end Sys2Proof.Machine
end

