-- ==== Sys2Proof/Machine/Header.lean ====
section
/-! DEFINITION. The WireHeader accessors, 0x01 to 0x11 (40_wireheader.md). Each checks in the order of R120: E_CTX,
E_ARG, E_BUS; a getter answers its bits whatever the kind of packet. -/

namespace Sys2Proof.Machine

/-- A getter: RES0 <- Hdr(c, w)[hi:lo], zero-extended (40_wireheader.md R120, 30_encoding.md R98). -/
def getHdrField (c : Byte) (w hi lo : Nat) (s : State) : Host.Outcome State Fault Refusal :=
  complete s [noCtx s c, noHdr s c w] { s with res0 := slice (s.hdr c.toNat w) hi lo }

/-- A setter: Hdr(c, w)[hi:lo] <- v, the word read, changed and written back as one step (42_frame_metadata.md R200,
10_state.md R40). -/
def setHdrField (c : Byte) (w hi lo : Nat) (v : Word) (s : State) : Host.Outcome State Fault Refusal :=
  complete s [noCtx s c, noHdr s c w] (s.setHdr c.toNat w (replaceSlice (s.hdr c.toNat w) hi lo v))

/-- GET_FLAG (R121) -/
def execGetFlag (c : Byte) (s : State) : Host.Outcome State Fault Refusal := getHdrField c 0 31 31 s

/-- GET_TYPE (R122) -/
def execGetType (c : Byte) (s : State) : Host.Outcome State Fault Refusal := getHdrField c 0 30 28 s

/-- GET_EXTTYPE (R123) -/
def execGetExtType (c : Byte) (s : State) : Host.Outcome State Fault Refusal := getHdrField c 0 27 16 s

/-- GET_SEQNO (R124) -/
def execGetSeqNo (c : Byte) (s : State) : Host.Outcome State Fault Refusal := getHdrField c 0 30 0 s

/-- GET_ACKSEQNO: all 32 bits of word 1 (R125, 90_conflicts.md C1) -/
def execGetAckSeqNo (c : Byte) (s : State) : Host.Outcome State Fault Refusal := getHdrField c 1 31 0 s

/-- GET_MSGBOUNDARY (R126) -/
def execGetMsgBoundary (c : Byte) (s : State) : Host.Outcome State Fault Refusal := getHdrField c 1 31 30 s

/-- GET_MSGORDERFLAG (R127) -/
def execGetMsgOrderFlag (c : Byte) (s : State) : Host.Outcome State Fault Refusal := getHdrField c 1 29 29 s

/-- GET_MSGSEQ (R128) -/
def execGetMsgSeq (c : Byte) (s : State) : Host.Outcome State Fault Refusal := getHdrField c 1 28 0 s

/-- GET_WORD: RES0 <- Hdr(c, ARG0) (R129) -/
def execGetWord (c : Byte) (s : State) : Host.Outcome State Fault Refusal :=
  complete s [noCtx s c, badIndex s.arg0 4, noHdr s c s.arg0.toNat] { s with res0 := s.hdr c.toNat s.arg0.toNat }

/-- SET_WORD: Hdr(c, ARG0) <- ARG1 (R130) -/
def execSetWord (c : Byte) (s : State) : Host.Outcome State Fault Refusal :=
  complete s [noCtx s c, badIndex s.arg0 4, noHdr s c s.arg0.toNat] (s.setHdr c.toNat s.arg0.toNat s.arg1)

/-- GET_LENGTH: RES0 <- CTX[c].PLEN (R131) -/
def execGetLength (c : Byte) (s : State) : Host.Outcome State Fault Refusal :=
  complete s [noCtx s c] { s with res0 := (s.ctx c.toNat).plen }

/-- The length n is one that SET_LENGTH rejects: beyond OCAP on an OWNED context, past 2^32 on a BORROWED one (R132). -/
def badLength (x : Ctx) (n : Word) : Bool × ErrCode :=
  (match x.own with
    | .owned => x.ocap.toNat < n.toNat
    | .borrowed => pastTop x.paddr n.toNat, .range)

/-- SET_LENGTH: CTX[c].PLEN <- ARG0 (R132) -/
def execSetLength (c : Byte) (s : State) : Host.Outcome State Fault Refusal :=
  complete s [noCtx s c, badLength (s.ctx c.toNat) s.arg0]
    (s.setCtx c.toNat { s.ctx c.toNat with plen := s.arg0 })

end Sys2Proof.Machine
end

