-- ==== Sys2Proof/Machine/Frame.lean ====
section
/-! DEFINITION. The frame metadata commands, 0x20 to 0x27 (42_frame_metadata.md): three packed fields of word 4, and the
deadline, which is word 2 whole. A setter truncates its operand to the field's width and never rejects it (R200). -/

namespace Sys2Proof.Machine

/-- GET_FRAMEID (R201) -/
def execGetFrameId (c : Byte) (s : State) : Host.Outcome State Fault Refusal := getHdrField c 4 31 16 s

/-- SET_FRAMEID (R202) -/
def execSetFrameId (c : Byte) (s : State) : Host.Outcome State Fault Refusal := setHdrField c 4 31 16 s.arg0 s

/-- GET_CHUNKID (R203) -/
def execGetChunkId (c : Byte) (s : State) : Host.Outcome State Fault Refusal := getHdrField c 4 15 8 s

/-- SET_CHUNKID (R204) -/
def execSetChunkId (c : Byte) (s : State) : Host.Outcome State Fault Refusal := setHdrField c 4 15 8 s.arg0 s

/-- GET_TOTALCHUNKS (R205) -/
def execGetTotalChunks (c : Byte) (s : State) : Host.Outcome State Fault Refusal := getHdrField c 4 7 0 s

/-- SET_TOTALCHUNKS (R206) -/
def execSetTotalChunks (c : Byte) (s : State) : Host.Outcome State Fault Refusal := setHdrField c 4 7 0 s.arg0 s

/-- GET_FRAMEDEADLINE (R207) -/
def execGetFrameDeadline (c : Byte) (s : State) : Host.Outcome State Fault Refusal := getHdrField c 2 31 0 s

/-- SET_FRAMEDEADLINE: word 2 is written whole, not read (R208) -/
def execSetFrameDeadline (c : Byte) (s : State) : Host.Outcome State Fault Refusal :=
  complete s [noCtx s c, noHdr s c 2] (s.setHdr c.toNat 2 s.arg0)

end Sys2Proof.Machine
end

