-- ==== Sys2Proof/Machine/Handshake.lean ====
section
/-! DEFINITION. The handshake codec, 0x30 to 0x34 (43_handshake.md). These commands use no context. -/

namespace Sys2Proof.Machine

/-- HS_SIZE, the record's content size in bytes (00_scope.md R9, 43_handshake.md R231). -/
abbrev hsSize : Nat := 48

/-- SEALED = 1: E_HS_SEALED (10_state.md R46). -/
def isSealed (s : State) : Bool × ErrCode := (s.sealed, .hsSealed)

/-- The serialized record: field k in bytes 4k to 4k+3, big-endian (R231). -/
def Handshake.bytes (h : Handshake) : List Byte := h.words.flatMap wordBytes

/-- The n words at a, a+4, ... of the buffer memory. -/
def State.wordsAt (s : State) : Nat → Nat → List Word
  | _, 0 => []
  | a, n + 1 => s.wordAt a :: State.wordsAt s (a + 4) n

/-- HS_NEW (R232) -/
def execHsNew (s : State) : Host.Outcome State Fault Refusal :=
  complete s [] { s with hs := .zero, sealed := false }

/-- HS_GET: RES0 <- HS[ARG0] (R233) -/
def execHsGet (s : State) : Host.Outcome State Fault Refusal :=
  complete s [badIndex s.arg0 11] { s with res0 := s.hs.get s.arg0.toNat }

/-- HS_SET: HS[ARG0] <- ARG1 (R234) -/
def execHsSet (s : State) : Host.Outcome State Fault Refusal :=
  complete s [badIndex s.arg0 11, isSealed s] { s with hs := s.hs.set s.arg0.toNat s.arg1 }

/-- HS_SERIALIZE: the 48 bytes at ARG0, SEALED <- 1, RES0 <- 48 (R235) -/
def execHsSerialize (s : State) : Host.Outcome State Fault Refusal :=
  complete s
    [(s.arg1.toNat < hsSize, .hsCap), badRange s.arg0 hsSize, unmapped s s.arg0.toNat hsSize]
    { s.writeBytes s.arg0.toNat s.hs.bytes with sealed := true, res0 := BitVec.ofNat 32 hsSize }

/-- HS_DESERIALIZE: HS from the 48 bytes at ARG0, RES0 <- 48 (R236) -/
def execHsDeserialize (s : State) : Host.Outcome State Fault Refusal :=
  complete s
    [isSealed s, (s.arg1.toNat < hsSize, .hsSize), badRange s.arg0 hsSize, unmapped s s.arg0.toNat hsSize]
    { s with hs := .ofWords (s.wordsAt s.arg0.toNat 12), res0 := BitVec.ofNat 32 hsSize }

end Sys2Proof.Machine
end

