-- ==== Sys2Proof/Machine/Packet.lean ====
section
/-! DEFINITION. Packet construction, descriptor, binding and cloning, 0x12 to 0x18 (41_packet.md). -/

namespace Sys2Proof.Machine

/-- The packet-type word t has F = 1, a control packet (41_packet.md R161). -/
def isControl (t : Word) : Bool := slice t 31 31 == 1

/-- The word 0 that PACK writes for a control type word t: {1:1, t[30:28]:3, t[27:16]:12, 0:16} (R161). -/
def controlWord (t : Word) : Word :=
  BitVec.ofNat 32 (2 ^ 31 + (slice t 30 28).toNat * 2 ^ 28 + (slice t 27 16).toNat * 2 ^ 16)

/-- The state after a data PACK: bit 31 of word 0 cleared, nothing else (R161). -/
def packedData (c : Nat) (s : State) : State := s.setHdr c 0 (replaceSlice (s.hdr c 0) 31 31 0)

/-- The state after a control PACK: word 0 written whole; the lparam path writes word 1 and leaves no payload, the rparam
path references ARG2 with length ARG3, and neither leaves no payload (R161). -/
def packedControl (c : Nat) (lp rp : Bool) (s : State) : State :=
  let s1 := s.setHdr c 0 (controlWord s.arg0)
  if lp then
    (s1.setHdr c 1 s.arg1).setCtx c { s.ctx c with paddr := 0, plen := 0 }
  else if rp then s1.setCtx c { s.ctx c with paddr := s.arg2, plen := s.arg3 }
  else s1.setCtx c { s.ctx c with paddr := 0, plen := 0 }

/-- PACK (R161), its checks in the order of that rule -/
def execPack (c : Byte) (lp rp : Bool) (s : State) : Host.Outcome State Fault Refusal :=
  let f := isControl s.arg0
  complete s
    [noCtx s c,
      (f && slice s.arg0 15 0 != 0, .arg),
      (f && lp && rp, .arg),
      isOwned s c,
      (f && rp && pastTop s.arg2 s.arg3.toNat, .range),
      noHdr s c 0,
      (f && lp && (noHdr s c 1).1, .bus)]
    (if f then packedControl c.toNat lp rp s else packedData c.toNat s)

/-- The header size constant, in bytes (00_scope.md R9, 41_packet.md R162). -/
abbrev hdrSize : Nat := 20

/-- GET_PACKET_VECTOR: segment 0 is the header, segment 1 the payload (R162) -/
def execGetPacketVector (c : Byte) (s : State) : Host.Outcome State Fault Refusal :=
  complete s [noCtx s c]
    { s with res0 := (s.ctx c.toNat).hbase, res1 := BitVec.ofNat 32 hdrSize,
             res2 := (s.ctx c.toNat).paddr, res3 := (s.ctx c.toNat).plen }

/-- The state after a CLONE of context src into context dst with the buffer at a: header and payload are read whole, then
written (R163, 20_memory.md R72). The header is read in s, the payload in p, which is s but where a race gives the second
read other bytes (Machine/Race.lean); s1 is s after the allocator's answer. -/
def cloned (dst src : Nat) (a : Word) (p s s1 : State) : State :=
  let x := s.ctx src
  let hdr := s.readBytes x.hbase.toNat hdrSize
  let pay := p.readBytes x.paddr.toNat x.plen.toNat
  ((s1.writeBytes (winAddr s.cfg dst) hdr).writeBytes a.toNat pay).setCtx dst
    { hbase := BitVec.ofNat 32 (winAddr s.cfg dst), paddr := a, plen := x.plen, ocap := x.plen, own := .owned }

/-- The checks of CLONE that precede the Alloc request, in the order of R163. -/
def cloneChecks (dst src : Byte) (s : State) : List (Bool × ErrCode) :=
  [noCtx s dst, noCtx s src, (src == dst, .arg), isOwned s dst,
    unmapped s (s.ctx src.toNat).hbase.toNat hdrSize,
    unmapped s (s.ctx src.toNat).paddr.toNat (s.ctx src.toNat).plen.toNat]

/-- CLONE with its payload read in p (R163): an answer Fail raises E_ALLOC, neither blocked nor retried
(60_exceptions.md R265). -/
def cloneReading (dst src : Byte) (p s : State) : Host.Outcome State Fault Refusal :=
  match firstError (cloneChecks dst src s) with
  | some e => raise s e
  | none =>
    match requestAlloc s dst.toNat (s.ctx src.toNat).plen with
    | .broken a => .refused (.allocContract a)
    | .failed s1 => raise s1 .alloc
    | .granted a s1 => finish (cloned dst.toNat src.toNat a p s s1)

/-- CLONE (R163) -/
def execClone (dst src : Byte) (s : State) : Host.Outcome State Fault Refusal := cloneReading dst src s s

/-- BIND: the header is the datagram's first 20 bytes in place, the payload the rest; no byte is accessed, and PADDR
alone may wrap to 0 (R164) -/
def execBind (c : Byte) (s : State) : Host.Outcome State Fault Refusal :=
  complete s
    [noCtx s c, isOwned s c, (s.arg1.toNat < hdrSize, .short), badRange s.arg0 s.arg1.toNat]
    (s.setCtx c.toNat
      { s.ctx c.toNat with
        hbase := s.arg0
        paddr := BitVec.ofNat 32 (s.arg0.toNat + hdrSize)
        plen := BitVec.ofNat 32 (s.arg1.toNat - hdrSize) })

/-- SET_PAYLOAD: the payload references ARG0 with length ARG1 (R165) -/
def execSetPayload (c : Byte) (s : State) : Host.Outcome State Fault Refusal :=
  complete s [noCtx s c, isOwned s c, badRange s.arg0 s.arg1.toNat]
    (s.setCtx c.toNat { s.ctx c.toNat with paddr := s.arg0, plen := s.arg1 })

/-- The state after RELEASE: an owned buffer is freed once, the window is zeroed, the context is as after reset (R166). -/
def released (c : Nat) (s : State) : State :=
  let x := s.ctx c
  let s1 := match x.own with
    | .owned => s.freeAlloc c x.paddr x.ocap
    | .borrowed => s
  (s1.writeBytes (winAddr s.cfg c) (List.replicate hdrSize 0)).setCtx c (Ctx.fresh s.cfg c)

/-- RELEASE (R166) -/
def execRelease (c : Byte) (s : State) : Host.Outcome State Fault Refusal :=
  complete s [noCtx s c] (released c.toNat s)

/-- OWN as a word, 0 = BORROWED, 1 = OWNED (10_state.md R30). -/
def ownWord : Ownership → Word
  | .borrowed => 0
  | .owned => 1

/-- GET_CTX_STATE: RES0 <- OWN, RES1 <- OCAP (R167) -/
def execGetCtxState (c : Byte) (s : State) : Host.Outcome State Fault Refusal :=
  complete s [noCtx s c]
    { s with res0 := ownWord (s.ctx c.toNat).own, res1 := (s.ctx c.toNat).ocap }

end Sys2Proof.Machine
end

