-- ==== Sys2Proof/Machine/Dispatch.lean ====
section
/-! DEFINITION. Which meaning each command has: one arm per constructor of Instr, each one call (30_encoding.md R99). -/

namespace Sys2Proof.Machine

def exec (i : Instr) (s : State) : Host.Outcome State Fault Refusal :=
  match i with
  | .getFlag c => Sys2Proof.Machine.execGetFlag c s
  | .getType c => Sys2Proof.Machine.execGetType c s
  | .getExtType c => Sys2Proof.Machine.execGetExtType c s
  | .getSeqNo c => Sys2Proof.Machine.execGetSeqNo c s
  | .getAckSeqNo c => Sys2Proof.Machine.execGetAckSeqNo c s
  | .getMsgBoundary c => Sys2Proof.Machine.execGetMsgBoundary c s
  | .getMsgOrderFlag c => Sys2Proof.Machine.execGetMsgOrderFlag c s
  | .getMsgSeq c => Sys2Proof.Machine.execGetMsgSeq c s
  | .getWord c => Sys2Proof.Machine.execGetWord c s
  | .setWord c => Sys2Proof.Machine.execSetWord c s
  | .getLength c => Sys2Proof.Machine.execGetLength c s
  | .setLength c => Sys2Proof.Machine.execSetLength c s
  | .pack c lp rp => Sys2Proof.Machine.execPack c lp rp s
  | .getPacketVector c => Sys2Proof.Machine.execGetPacketVector c s
  | .clone dst src => Sys2Proof.Machine.execClone dst src s
  | .bind c => Sys2Proof.Machine.execBind c s
  | .setPayload c => Sys2Proof.Machine.execSetPayload c s
  | .release c => Sys2Proof.Machine.execRelease c s
  | .getCtxState c => Sys2Proof.Machine.execGetCtxState c s
  | .getFrameId c => Sys2Proof.Machine.execGetFrameId c s
  | .setFrameId c => Sys2Proof.Machine.execSetFrameId c s
  | .getChunkId c => Sys2Proof.Machine.execGetChunkId c s
  | .setChunkId c => Sys2Proof.Machine.execSetChunkId c s
  | .getTotalChunks c => Sys2Proof.Machine.execGetTotalChunks c s
  | .setTotalChunks c => Sys2Proof.Machine.execSetTotalChunks c s
  | .getFrameDeadline c => Sys2Proof.Machine.execGetFrameDeadline c s
  | .setFrameDeadline c => Sys2Proof.Machine.execSetFrameDeadline c s
  | .hsNew => Sys2Proof.Machine.execHsNew s
  | .hsGet => Sys2Proof.Machine.execHsGet s
  | .hsSet => Sys2Proof.Machine.execHsSet s
  | .hsSerialize => Sys2Proof.Machine.execHsSerialize s
  | .hsDeserialize => Sys2Proof.Machine.execHsDeserialize s

end Sys2Proof.Machine
end

