-- ==== Sys2Proof/Machine/Issue.lean ====
section
/-! DEFINITION. A CMD write (10_state.md R25, 30_encoding.md R96): the word is stored, decoded and executed as one step;
a word that selects no command raises E_ILLEGAL. -/

namespace Sys2Proof.Machine

/-- A host write of w to CMD. -/
def issue (w : Word) (s : State) : Host.Outcome State Fault Refusal :=
  match decode w with
  | .ok i => exec i { s with cmd := w }
  | .error _ => raise { s with cmd := w } .illegal

end Sys2Proof.Machine
end

