-- ==== Sys2Proof/Machine/Race.lean ====
section
/-! DEFINITION. A command that races with stores of other agents (20_memory.md R73, 70_reset_and_hazards.md R308): each
byte the command reads is the value held before or one of the values being written, each read on its own, and each racing
byte ends with one of the values written to it, the command's own among them. Which, is a free value for each byte and
each read (notes/assumptions/7.md). CLONE is the one command that can read a byte twice, once as header and once as
payload (41_packet.md R163); every other command reads a byte at most once. -/

namespace Sys2Proof.Machine

/-- The regions a command stores to when it takes s to t without an error, by its rule of 40 to 43. -/
def storeRegions (s t : State) : Instr → List Region
  | .getFlag _ => []
  | .getType _ => []
  | .getExtType _ => []
  | .getSeqNo _ => []
  | .getAckSeqNo _ => []
  | .getMsgBoundary _ => []
  | .getMsgOrderFlag _ => []
  | .getMsgSeq _ => []
  | .getWord _ => []
  | .setWord c => [(s.hdrAddr c.toNat s.arg0.toNat, 4)]
  | .getLength _ => []
  | .setLength _ => []
  | .pack c lp _ =>
    (s.hdrAddr c.toNat 0, 4) :: (if isControl s.arg0 && lp then [(s.hdrAddr c.toNat 1, 4)] else [])
  | .getPacketVector _ => []
  | .clone dst _ =>
    [(winAddr s.cfg dst.toNat, hdrSize), ((t.ctx dst.toNat).paddr.toNat, (t.ctx dst.toNat).plen.toNat)]
  | .bind _ => []
  | .setPayload _ => []
  | .release c => [(winAddr s.cfg c.toNat, hdrSize)]
  | .getCtxState _ => []
  | .getFrameId _ => []
  | .setFrameId c => [(s.hdrAddr c.toNat 4, 4)]
  | .getChunkId _ => []
  | .setChunkId c => [(s.hdrAddr c.toNat 4, 4)]
  | .getTotalChunks _ => []
  | .setTotalChunks c => [(s.hdrAddr c.toNat 4, 4)]
  | .getFrameDeadline _ => []
  | .setFrameDeadline c => [(s.hdrAddr c.toNat 2, 4)]
  | .hsNew => []
  | .hsGet => []
  | .hsSet => []
  | .hsSerialize => [(s.arg0.toNat, hsSize)]
  | .hsDeserialize => []

/-- Does the command of word w, taking s to t, store to address a? A command that ends with an error stores nothing
(60_exceptions.md R262). -/
def commandStores (w : Word) (s t : State) (a : Nat) : Bool :=
  match decode w with
  | .ok i => t.err == okCode && (storeRegions s t i).any fun r => inRegion r a
  | .error _ => false

/-- The values being written to address a. -/
def racedValues (stores : List (Word × Byte)) (a : Nat) : List Byte :=
  (stores.filter fun x => x.1.toNat == a).map Prod.snd

/-- One of b and bs, by pick number j. -/
def pickByte (pick : Nat → Nat) (j : Nat) (b : Byte) (bs : List Byte) : Byte :=
  (b :: bs).getD (pick j % (bs.length + 1)) b

/-- The memory a racing command reads: at each racing address the value of `old` or one being written. -/
def racedView (pick : Nat → Nat) (old : State) (stores : List (Word × Byte)) :
    List (Word × Byte) → Nat → Memory → Memory
  | [], _, m => m
  | (a, _) :: rest, j, m =>
    racedView pick old stores rest (j + 1)
      (storeByte old.cfg m a.toNat (pickByte pick j (old.byteAt a.toNat) (racedValues stores a.toNat)))

/-- The memory after the race: each racing address ends with one of the values written to it. `view` is the state the
command was executed in, `t` the state it ended in. -/
def racedEnd (pick : Nat → Nat) (w : Word) (view t : State) (stores : List (Word × Byte)) :
    List (Word × Byte) → Nat → Memory → Memory
  | [], _, m => m
  | (a, b) :: rest, j, m =>
    racedEnd pick w view t stores rest (j + 1)
      (storeByte t.cfg m a.toNat
        (pickByte pick j b (racedValues stores a.toNat ++
          (if commandStores w view t a.toNat then [t.byteAt a.toNat] else []))))

/-- The state a racing command is executed in. -/
def raceView (pick : Nat → Nat) (stores : List (Word × Byte)) (s : State) : State :=
  { s with mem := racedView pick s stores stores 0 s.mem, draws := s.draws + 1 }

/-- The state a racing command makes its second reads in, those of CLONE's payload, each byte picked anew. -/
def racePayload (pick : Nat → Nat) (stores : List (Word × Byte)) (s : State) : State :=
  { s with mem := racedView pick s stores stores stores.length s.mem, draws := s.draws + 1 }

/-- A command whose second reads are made in p: the payload of CLONE. No other command reads a byte twice, and it is
executed in s alone. -/
def execReading (p : State) (i : Instr) (s : State) : Host.Outcome State Fault Refusal :=
  match i with
  | .clone dst src => cloneReading dst src p s
  | i => exec i s

/-- A CMD write of w (10_state.md R25) whose command makes its second reads in p. -/
def issueReading (p : State) (w : Word) (s : State) : Host.Outcome State Fault Refusal :=
  match decode w with
  | .ok i => execReading p i { s with cmd := w }
  | .error _ => raise { s with cmd := w } .illegal

/-- A CMD write of w while other agents store bytes, under given picks: the first picks for what is read, the next for
what is read a second time, the last for what is left. -/
def raceWith (pick : Nat → Nat) (w : Word) (stores : List (Word × Byte)) (s : State) :
    Host.Outcome State Fault Refusal :=
  match issueReading (racePayload pick stores s) w (raceView pick stores s) with
  | .next t =>
    .next { t with
      mem := racedEnd pick w (raceView pick stores s) t stores stores (2 * stores.length) t.mem }
  | .fault f => .fault f
  | .refused r => .refused r

/-- A CMD write of w while other agents store bytes (R308): the picks are draw number s.draws. -/
def issueRaced (w : Word) (stores : List (Word × Byte)) (s : State) : Host.Outcome State Fault Refusal :=
  raceWith (Config.racePick s.draws) w stores s

end Sys2Proof.Machine
end

