-- ==== Sys2Proof/Machine/Input.lean ====
section
/-! DEFINITION. What each input does (00_scope.md R19): the host's accesses to the register port and to the buffer
memory, the datapath's stores, the platform's reset event and its reclaiming of buffers. -/

namespace Sys2Proof.Machine

/-- The buffer memory after a platform reset: window bytes zero, the others unspecified (10_state.md R49, 93 U8). -/
def ramAfterReset (cfg : Config) (k : Nat) : Memory :=
  (Config.ramAfterReset k).foldl
    (fun m x => if inRegion (windowRegion cfg) x.1.toNat then m else m.write x.1.toNat x.2) []

/-- The platform's reset event: every piece of block state takes its reset value in one step, no Free is called
(70_reset_and_hazards.md R290, R292). The parameters, the allocator's state and the host's program are no part of it
(10_state.md R50). -/
def State.platformReset (s : State) : State :=
  { State.resetOf s.cfg with
    mem := ramAfterReset s.cfg s.draws
    live := s.live
    allocAnswers := s.allocAnswers
    inputs := s.inputs
    draws := s.draws + 1
    hostReads := s.hostReads
    allocTrace := s.allocTrace }

/-- Is the live allocation the buffer of an OWNED context (10_state.md R43 (c))? -/
def holds (s : State) (l : Allocation) : Bool :=
  l.owner < s.cfg.nCtx && (s.ctx l.owner).own == .owned && (s.ctx l.owner).paddr == l.base &&
    (s.ctx l.owner).ocap == l.size

/-- The platform reclaims the buffers that no context owns, those recorded from before a reset (70_reset_and_hazards.md
R292, R294; notes/assumptions/6.md). -/
def State.reclaim (s : State) : State := { s with live := s.live.filter fun l => holds s l }

/-- An access of an agent other than the block to the n bytes at a: a fault where one is not mapped or lies past 2^32
(notes/assumptions/9.md). -/
def agentAccess (s : State) (a n : Nat) (done : State) : Host.Outcome State Fault Refusal :=
  if mappedRegion s.cfg (a, n) then .next done else .fault (.agentAccess a)

/-- One input, in the state from whose stream it is already taken. -/
def takeInput (x : Input) (s : State) : Host.Outcome State Fault Refusal :=
  match x with
  | .portWrite off width v =>
    if portAccessOk off width then
      if portReg off = .cmd then issue v s else .next (s.portStore v (portReg off))
    else .refused (.portAccess off)
  | .portRead off width =>
    if portAccessOk off width then .next (s.recordRead (s.portValue (portReg off)))
    else .refused (.portAccess off)
  | .memWrite8 a b => agentAccess s a.toNat 1 (s.writeBytes a.toNat [b])
  | .memWrite32 a v => agentAccess s a.toNat 4 (s.writeWord a.toNat v)
  | .memRead32 a => agentAccess s a.toNat 4 (s.recordRead (s.wordAt a.toNat))
  | .cmdRaced w stores =>
    match stores.find? (fun x => !mappedRegion s.cfg (x.1.toNat, 1)) with
    | some x => .fault (.agentAccess x.1.toNat)
    | none => issueRaced w stores s
  | .platformReset => .next s.platformReset
  | .reclaim => .next s.reclaim

/-- The input that is a CMD write of w. -/
def cmdWrite (w : Word) : Input := wr .cmd w

end Sys2Proof.Machine
end

