-- ==== Sys2Proof/Safety.lean ====
section
/-! DEFINITION. What holds of every state of a run (10_state.md R43 with the bounds of 00_scope.md R9), and what counts
as a safe step: the words the statements use. -/

namespace Sys2Proof.Machine

/-- R43 (a): the payload region is empty or ends at or below 2^32. -/
def Ctx.payloadFits (x : Ctx) : Bool := x.plen == 0 || x.paddr.toNat + x.plen.toNat ≤ 2 ^ 32

/-- R43 (b): the header ends at or below 2^32. -/
def Ctx.headerFits (x : Ctx) : Bool := x.hbase.toNat + 20 ≤ 2 ^ 32

/-- R43 (c): an OWNED context c has its header in its own window, a length within its buffer, and its buffer live. -/
def ownedHolds (s : State) (c : Nat) (x : Ctx) : Bool :=
  x.own == .borrowed ||
    (x.hbase.toNat == winAddr s.cfg c && x.plen.toNat ≤ x.ocap.toNat &&
      s.live.contains ⟨c, x.paddr, x.ocap⟩)

/-- R43 (d): a BORROWED context owns no buffer. -/
def Ctx.borrowedEmpty (x : Ctx) : Bool := x.own == .owned || x.ocap == 0

/-- R43 for context c. -/
def ctxInv (s : State) (c : Nat) : Bool :=
  (s.ctx c).payloadFits && (s.ctx c).headerFits && ownedHolds s c (s.ctx c) && (s.ctx c).borrowedEmpty

/-- A live allocation ends at or below 2^32 (20_memory.md R70 (a)). -/
def Allocation.fits (l : Allocation) : Bool := l.base.toNat + l.size.toNat ≤ 2 ^ 32

/-- No reserved window byte is listed in the memory: it has no storage (20_memory.md R67). -/
def noReservedListed (s : State) : Bool := s.mem.all fun x => !reservedByte s.cfg x.1

/-- The invariant of the machine: parameters within their bounds, N_CTX contexts, each with R43, live allocations inside
the address space, memory in canonical form with no reserved byte listed, and STATUS.ERR a code of 60_exceptions.md
R261. -/
def State.Inv (s : State) : Bool :=
  s.cfg.wellFormed && s.ctxs.length == s.cfg.nCtx && (List.range s.cfg.nCtx).all (ctxInv s) &&
    s.live.all Allocation.fits && s.mem.wf && noReservedListed s && s.err.toNat ≤ 0x0B

/-- A step is safe when the machine neither faults nor refuses. -/
def safeStep (s : State) : Bool :=
  match step s with
  | .next _ => true
  | .fault _ => false
  | .refused _ => false

/-- The accesses the spec gives an outcome in state s: 32-bit aligned port accesses (10_state.md R22), accesses of agents
to mapped bytes of M (20_memory.md R64). -/
def inputDefined (s : State) : Input → Bool
  | .portWrite off width _ => portAccessOk off width
  | .portRead off width => portAccessOk off width
  | .memWrite8 a _ => mappedRegion s.cfg (a.toNat, 1)
  | .memWrite32 a _ => mappedRegion s.cfg (a.toNat, 4)
  | .memRead32 a => mappedRegion s.cfg (a.toNat, 4)
  | .cmdRaced _ stores => stores.all fun x => mappedRegion s.cfg (x.1.toNat, 1)
  | .platformReset => true
  | .reclaim => true

/-- The situations of a context (41_packet.md R168). -/
inductive Situation where
  /-- BORROWED, header in the context's own window -/
  | ownPacket
  /-- BORROWED, header elsewhere -/
  | bound
  /-- OWNED, header in the context's own window -/
  | ownedClone
  /-- none of R168's three: OWNED with the header elsewhere -/
  | broken
deriving DecidableEq, Repr

/-- The situation of context c (41_packet.md R168). -/
def situation (s : State) (c : Nat) : Situation :=
  match (s.ctx c).own, (s.ctx c).hbase.toNat == winAddr s.cfg c with
  | .borrowed, true => .ownPacket
  | .borrowed, false => .bound
  | .owned, true => .ownedClone
  | .owned, false => .broken

/-- Mapped at one address, with the address inside M (20_memory.md R60, R64). -/
abbrev MappedAt (cfg : Config) (a : Nat) : Prop :=
  a < 2 ^ 32 ∧ ∀ h ∈ cfg.holes, ¬(h.1 ≤ a ∧ a < h.1 + h.2)

/-- Mapped holds at each of the n addresses from a (20_memory.md R64). -/
abbrev MappedAll (cfg : Config) (a n : Nat) : Prop := ∀ k < n, MappedAt cfg (a + k)

/-- The address of header byte k of context c (10_state.md R34). -/
abbrev hdrByteAddr (s : State) (c : Byte) (k : Nat) : Nat := (s.ctx c.toNat).hbase.toNat + k

/-- The value of header word w of context c: its four bytes, the first the most significant (10_state.md R34, 20_memory.md
R62). -/
abbrev hdrValue (s : State) (c : Byte) (w : Nat) : Nat :=
  (s.byteAt (hdrByteAddr s c (4 * w))).toNat * 2 ^ 24 + (s.byteAt (hdrByteAddr s c (4 * w + 1))).toNat * 2 ^ 16 +
    (s.byteAt (hdrByteAddr s c (4 * w + 2))).toNat * 2 ^ 8 + (s.byteAt (hdrByteAddr s c (4 * w + 3))).toNat

/-- What a byte b stored at address x reads as afterwards: 0 at a reserved window byte, which ignores the store
(20_memory.md R67). -/
abbrev storedByte (cfg : Config) (x : Nat) (b : Byte) : Byte := if reservedByte cfg x then 0 else b

/-- Byte i (0 the most significant) of the value v (20_memory.md R62). -/
abbrev beByte (v i : Nat) : Byte := BitVec.ofNat 8 (v / 2 ^ (24 - 8 * i))

/-- The state after the error of a code: nothing but STATUS changed (60_exceptions.md R262). -/
abbrev State.failed (s : State) (code : BitVec 8) : State := { s with err := code, anyErr := true }

/-- The contract of the answer Ok(a) to Alloc(n), address by address (20_memory.md R70 (a) to (c)). -/
abbrev AllocContract (s : State) (n a : Nat) : Prop :=
  a + n ≤ 2 ^ 32 ∧ ∀ k < n,
    MappedAt s.cfg (a + k) ∧
    ¬(s.cfg.winBase ≤ a + k ∧ a + k < s.cfg.winBase + 32 * s.cfg.nCtx) ∧
    (∀ l ∈ s.live, ¬(l.base.toNat ≤ a + k ∧ a + k < l.base.toNat + l.size.toNat)) ∧
    ∀ x ∈ s.ctxs,
      ¬(x.hbase.toNat ≤ a + k ∧ a + k < x.hbase.toNat + 20) ∧
      ¬(x.paddr.toNat ≤ a + k ∧ a + k < x.paddr.toNat + x.plen.toNat)

end Sys2Proof.Machine
end

