-- ==== Sys2Proof/Certificates/Slice0/Obligations.lean ====
section
/-! DEFINITION. The statements for the provers. A statement speaks of every state and of every operand; where only states
of a run have a property it needs, the invariant State.Inv is its premise. Values are written on unsigned integers, by
the formulas of spec/. A next state is written as the old one with the fields that change; where memory changes, its
new content is given byte by byte, as every agent reads it. -/

open Sys2Proof Sys2Proof.Machine

/-! ## Encoding -/

/-- 30_encoding.md R95: a command's word is Enc of its well-formed fields, and a word decodes to a command exactly when it
is that command's word. -/
def Obligations.DecodeInvertsEncode : Prop :=
  ∀ (i : Instr) (w : Word),
    i.fields.wellFormed = true ∧
    (encode i).toNat = i.fields.op + 256 * i.fields.ctx + 65536 * i.fields.src + 2 ^ 24 * i.fields.lp +
      2 ^ 25 * i.fields.rp ∧
    (decode w = .ok i ↔ w = encode i)

/-- 30_encoding.md R94, R96: a word selects a command exactly when its bits 31:26 are 0 and its fields are well formed. -/
def Obligations.WordDecodesIffWellFormed : Prop :=
  ∀ w : Word, (∃ i, decode w = .ok i) ↔
    w.toNat < 2 ^ 26 ∧
      Fields.wellFormed ⟨w.toNat % 256, w.toNat / 2 ^ 8 % 256, w.toNat / 2 ^ 16 % 256, w.toNat / 2 ^ 24 % 2,
        w.toNat / 2 ^ 25 % 2⟩ = true

/-- 30_encoding.md R100: a CMD write with an unassigned opcode raises E_ILLEGAL and changes nothing else (CMD holds the
word, 10_state.md R25). -/
def Obligations.ReservedOpcodesRaiseIllegal : Prop :=
  ∀ (s : State) (w : Word) (op : Nat), op = w.toNat % 256 →
    (op = 0x00 ∨ (0x0B ≤ op ∧ op ≤ 0x0F) ∨ (0x19 ≤ op ∧ op ≤ 0x1F) ∨ (0x28 ≤ op ∧ op ≤ 0x2F) ∨ 0x35 ≤ op) →
    issue w s = .next (State.failed { s with cmd := w } 0x01)

/-- 30_encoding.md R96: a word that decodes to nothing raises E_ILLEGAL. -/
def Obligations.UndecodedWordRaisesIllegal : Prop :=
  ∀ (s : State) (w : Word) (e : DecodeError) (rest : List Input),
    s.inputs = .portWrite 0x00 .bits32 w :: rest → decode w = .error e →
    step s = .next (State.failed { s with inputs := rest, cmd := w } 0x01)

/-- A word of every row of 30_encoding.md R99, its fields placed by R90, with the command it stands for; words of PACK
and CLONE with each of their own fields set. -/
def Obligations.ListedWordsDecode : Prop :=
  decode 0x00000701 = .ok (.getFlag 7) ∧ decode 0x00000302 = .ok (.getType 3) ∧
  decode 0x00000303 = .ok (.getExtType 3) ∧ decode 0x00000104 = .ok (.getSeqNo 1) ∧
  decode 0x00000305 = .ok (.getAckSeqNo 3) ∧ decode 0x00000006 = .ok (.getMsgBoundary 0) ∧
  decode 0x00000007 = .ok (.getMsgOrderFlag 0) ∧ decode 0x0000FF08 = .ok (.getMsgSeq 255) ∧
  decode 0x00000409 = .ok (.getWord 4) ∧ decode 0x0000010A = .ok (.setWord 1) ∧
  decode 0x00000210 = .ok (.getLength 2) ∧ decode 0x00000211 = .ok (.setLength 2) ∧
  decode 0x00000012 = .ok (.pack 0 false false) ∧ decode 0x01000312 = .ok (.pack 3 true false) ∧
  decode 0x02000212 = .ok (.pack 2 false true) ∧ decode 0x03000012 = .ok (.pack 0 true true) ∧
  decode 0x00000113 = .ok (.getPacketVector 1) ∧ decode 0x00000114 = .ok (.clone 1 0) ∧
  decode 0x00050214 = .ok (.clone 2 5) ∧ decode 0x00000115 = .ok (.bind 1) ∧
  decode 0x00000116 = .ok (.setPayload 1) ∧ decode 0x00000117 = .ok (.release 1) ∧
  decode 0x00000118 = .ok (.getCtxState 1) ∧ decode 0x00000020 = .ok (.getFrameId 0) ∧
  decode 0x00000121 = .ok (.setFrameId 1) ∧ decode 0x00000022 = .ok (.getChunkId 0) ∧
  decode 0x00000123 = .ok (.setChunkId 1) ∧ decode 0x00000024 = .ok (.getTotalChunks 0) ∧
  decode 0x00000225 = .ok (.setTotalChunks 2) ∧ decode 0x00000026 = .ok (.getFrameDeadline 0) ∧
  decode 0x00000227 = .ok (.setFrameDeadline 2) ∧ decode 0x00000030 = .ok .hsNew ∧
  decode 0x00000031 = .ok .hsGet ∧ decode 0x00000032 = .ok .hsSet ∧
  decode 0x00000033 = .ok .hsSerialize ∧ decode 0x00000034 = .ok .hsDeserialize

/-! ## One step, and the register port -/

/-- 10_state.md R25, 30_encoding.md R96: the step that takes a CMD write of a command's word is exec of that command, CMD
holding the word. -/
def Obligations.StepRunsDecodedCommand : Prop :=
  ∀ (s : State) (w : Word) (i : Instr) (rest : List Input),
    s.inputs = .portWrite 0x00 .bits32 w :: rest → decode w = .ok i →
    step s = exec i { s with inputs := rest, cmd := w }

/-- 60_exceptions.md R275: with no input the block is idle and all state is kept. -/
def Obligations.IdleBlockKeepsState : Prop :=
  ∀ s : State, s.inputs = [] → step s = .next s

/-- 10_state.md R28: a write to STATUS clears ANYERR where bit 9 is 1, and changes nothing else. -/
def Obligations.StatusWriteClearsAnyErrOnly : Prop :=
  ∀ (s : State) (v : Word) (rest : List Input),
    s.inputs = .portWrite 0x04 .bits32 v :: rest →
    step s = .next
      { s with inputs := rest, anyErr := if v.toNat / 2 ^ 9 % 2 = 1 then false else s.anyErr }

/-- 10_state.md R21, R27: what a read of each register returns, STATUS as its fields, a reserved offset as 0. -/
def Obligations.PortReadsReturnRegisters : Prop :=
  ∀ (s : State) (rest : List Input) (off : BitVec 6) (v : Word),
    (off, v) ∈
      [(0x00, s.cmd),
        (0x04, BitVec.ofNat 32 (s.err.toNat + (if s.sealed then 2 ^ 8 else 0) + if s.anyErr then 2 ^ 9 else 0)),
        (0x08, s.arg0), (0x0C, s.arg1), (0x10, s.arg2), (0x14, s.arg3),
        (0x18, s.res0), (0x1C, s.res1), (0x20, s.res2), (0x24, s.res3),
        (0x28, 0), (0x2C, 0), (0x30, 0), (0x34, 0), (0x38, 0), ((0x3C, 0) : BitVec 6 × Word)] →
    s.inputs = .portRead off .bits32 :: rest →
    step s = .next { s with inputs := rest, hostReads := v :: s.hostReads }

/-- 10_state.md R22: writes to RES and to reserved offsets are ignored, a reserved offset reads 0, and an access that is
not 32 bits wide at a multiple of 4 is refused. -/
def Obligations.PortIgnoresAndRefuses : Prop :=
  ∀ (s : State) (off : BitVec 6) (width : AccessWidth) (v : Word) (rest : List Input),
    (width = .bits32 → off.toNat % 4 = 0 → 0x18 ≤ off.toNat → s.inputs = .portWrite off width v :: rest →
      step s = .next { s with inputs := rest }) ∧
    (width = .bits32 → off.toNat % 4 = 0 → 0x28 ≤ off.toNat → s.inputs = .portRead off width :: rest →
      step s = .next { s with inputs := rest, hostReads := 0 :: s.hostReads }) ∧
    (¬(width = .bits32 ∧ off.toNat % 4 = 0) →
      (s.inputs = .portWrite off width v :: rest → step s = .refused (.portAccess off)) ∧
      (s.inputs = .portRead off width :: rest → step s = .refused (.portAccess off)))

/-- 10_state.md R23: a write to ARG0, ARG1, ARG2 or ARG3 stores the value there and changes nothing else. -/
def Obligations.ArgWritesAreStored : Prop :=
  ∀ (s : State) (v : Word) (rest : List Input),
    (s.inputs = .portWrite 0x08 .bits32 v :: rest → step s = .next { s with inputs := rest, arg0 := v }) ∧
    (s.inputs = .portWrite 0x0C .bits32 v :: rest → step s = .next { s with inputs := rest, arg1 := v }) ∧
    (s.inputs = .portWrite 0x10 .bits32 v :: rest → step s = .next { s with inputs := rest, arg2 := v }) ∧
    (s.inputs = .portWrite 0x14 .bits32 v :: rest → step s = .next { s with inputs := rest, arg3 := v })

/-- 30_encoding.md R104: running the host accesses that a command expands to runs that command with its operands in the
ARG registers that R97 lists for it. -/
def Obligations.ExpansionRunsCommand : Prop :=
  ∀ (s : State) (i : Instr) (operands : List Word) (rest : List Input),
    operands.length = (argsRead i).length → s.inputs = expandCommand i operands ++ rest →
    Host.Core.run core (operands.length + 1) s =
      exec i
        { ((argsRead i).zip operands).foldl (fun t p => t.setArg p.1 p.2) s with
          inputs := rest, cmd := encode i }

/-! ## WireHeader accessors -/

/-- 40_wireheader.md R120 to R124: the word 0 getters, their errors in order, and their results. -/
def Obligations.WordZeroGettersReturnTheirBits : Prop :=
  ∀ (s : State) (c : Byte),
    (s.cfg.nCtx ≤ c.toNat →
      ∀ i ∈ [Instr.getFlag c, .getType c, .getExtType c, .getSeqNo c], exec i s = .next (s.failed 0x02)) ∧
    (c.toNat < s.cfg.nCtx → ¬MappedAll s.cfg (hdrByteAddr s c 0) 4 →
      ∀ i ∈ [Instr.getFlag c, .getType c, .getExtType c, .getSeqNo c], exec i s = .next (s.failed 0x0A)) ∧
    (c.toNat < s.cfg.nCtx → MappedAll s.cfg (hdrByteAddr s c 0) 4 →
      exec (.getFlag c) s = .next { s with res0 := BitVec.ofNat 32 (hdrValue s c 0 / 2 ^ 31), err := 0 } ∧
      exec (.getType c) s = .next { s with res0 := BitVec.ofNat 32 (hdrValue s c 0 / 2 ^ 28 % 8), err := 0 } ∧
      exec (.getExtType c) s =
        .next { s with res0 := BitVec.ofNat 32 (hdrValue s c 0 / 2 ^ 16 % 4096), err := 0 } ∧
      exec (.getSeqNo c) s = .next { s with res0 := BitVec.ofNat 32 (hdrValue s c 0 % 2 ^ 31), err := 0 })

/-- 40_wireheader.md R120, R125 to R128: the word 1 getters, their errors in order, and their results. -/
def Obligations.WordOneGettersReturnTheirBits : Prop :=
  ∀ (s : State) (c : Byte),
    (s.cfg.nCtx ≤ c.toNat →
      ∀ i ∈ [Instr.getAckSeqNo c, .getMsgBoundary c, .getMsgOrderFlag c, .getMsgSeq c],
        exec i s = .next (s.failed 0x02)) ∧
    (c.toNat < s.cfg.nCtx → ¬MappedAll s.cfg (hdrByteAddr s c 4) 4 →
      ∀ i ∈ [Instr.getAckSeqNo c, .getMsgBoundary c, .getMsgOrderFlag c, .getMsgSeq c],
        exec i s = .next (s.failed 0x0A)) ∧
    (c.toNat < s.cfg.nCtx → MappedAll s.cfg (hdrByteAddr s c 4) 4 →
      exec (.getAckSeqNo c) s = .next { s with res0 := BitVec.ofNat 32 (hdrValue s c 1), err := 0 } ∧
      exec (.getMsgBoundary c) s = .next { s with res0 := BitVec.ofNat 32 (hdrValue s c 1 / 2 ^ 30), err := 0 } ∧
      exec (.getMsgOrderFlag c) s =
        .next { s with res0 := BitVec.ofNat 32 (hdrValue s c 1 / 2 ^ 29 % 2), err := 0 } ∧
      exec (.getMsgSeq c) s = .next { s with res0 := BitVec.ofNat 32 (hdrValue s c 1 % 2 ^ 29), err := 0 })

/-- 40_wireheader.md R129: GET_WORD, its errors in order, and its result. -/
def Obligations.GetWordReturnsHeaderWord : Prop :=
  ∀ (s : State) (c : Byte),
    (s.cfg.nCtx ≤ c.toNat → exec (.getWord c) s = .next (s.failed 0x02)) ∧
    (c.toNat < s.cfg.nCtx → 4 < s.arg0.toNat → exec (.getWord c) s = .next (s.failed 0x03)) ∧
    (c.toNat < s.cfg.nCtx → s.arg0.toNat ≤ 4 → ¬MappedAll s.cfg (hdrByteAddr s c (4 * s.arg0.toNat)) 4 →
      exec (.getWord c) s = .next (s.failed 0x0A)) ∧
    (c.toNat < s.cfg.nCtx → s.arg0.toNat ≤ 4 → MappedAll s.cfg (hdrByteAddr s c (4 * s.arg0.toNat)) 4 →
      exec (.getWord c) s = .next { s with res0 := BitVec.ofNat 32 (hdrValue s c s.arg0.toNat), err := 0 })

/-- 40_wireheader.md R130: SET_WORD, its errors in order, and what it stores: the four bytes of the word, nothing else. -/
def Obligations.SetWordStoresHeaderWord : Prop :=
  ∀ (s : State) (c : Byte), s.Inv = true →
    (s.cfg.nCtx ≤ c.toNat → exec (.setWord c) s = .next (s.failed 0x02)) ∧
    (c.toNat < s.cfg.nCtx → 4 < s.arg0.toNat → exec (.setWord c) s = .next (s.failed 0x03)) ∧
    (c.toNat < s.cfg.nCtx → s.arg0.toNat ≤ 4 → ¬MappedAll s.cfg (hdrByteAddr s c (4 * s.arg0.toNat)) 4 →
      exec (.setWord c) s = .next (s.failed 0x0A)) ∧
    (c.toNat < s.cfg.nCtx → s.arg0.toNat ≤ 4 → MappedAll s.cfg (hdrByteAddr s c (4 * s.arg0.toNat)) 4 →
      ∃ t, exec (.setWord c) s = .next t ∧ t = { s with mem := t.mem, err := 0 } ∧
        ∀ x, t.byteAt x =
          if hdrByteAddr s c (4 * s.arg0.toNat) ≤ x ∧ x < hdrByteAddr s c (4 * s.arg0.toNat) + 4 then
            storedByte s.cfg x (beByte s.arg1.toNat (x - hdrByteAddr s c (4 * s.arg0.toNat)))
          else s.byteAt x)

/-- 40_wireheader.md R131, 41_packet.md R162, R167: the commands that read a context's registers and no memory. -/
def Obligations.ContextReadsReturnRegisters : Prop :=
  ∀ (s : State) (c : Byte),
    (s.cfg.nCtx ≤ c.toNat →
      ∀ i ∈ [Instr.getLength c, .getPacketVector c, .getCtxState c], exec i s = .next (s.failed 0x02)) ∧
    (c.toNat < s.cfg.nCtx →
      exec (.getLength c) s = .next { s with res0 := (s.ctx c.toNat).plen, err := 0 } ∧
      exec (.getPacketVector c) s =
        .next { s with
          res0 := (s.ctx c.toNat).hbase, res1 := 20, res2 := (s.ctx c.toNat).paddr, res3 := (s.ctx c.toNat).plen,
          err := 0 } ∧
      exec (.getCtxState c) s =
        .next { s with
          res0 := if (s.ctx c.toNat).own = .owned then 1 else 0, res1 := (s.ctx c.toNat).ocap, err := 0 })

/-- 40_wireheader.md R132: SET_LENGTH, its errors in order, and the one register it writes. -/
def Obligations.SetLengthWritesLength : Prop :=
  ∀ (s : State) (c : Byte) (tooLong : Prop),
    (tooLong ↔
      ((s.ctx c.toNat).own = .owned ∧ (s.ctx c.toNat).ocap.toNat < s.arg0.toNat) ∨
      ((s.ctx c.toNat).own = .borrowed ∧ 0 < s.arg0.toNat ∧
        2 ^ 32 < (s.ctx c.toNat).paddr.toNat + s.arg0.toNat)) →
    (s.cfg.nCtx ≤ c.toNat → exec (.setLength c) s = .next (s.failed 0x02)) ∧
    (c.toNat < s.cfg.nCtx → tooLong → exec (.setLength c) s = .next (s.failed 0x09)) ∧
    (c.toNat < s.cfg.nCtx → ¬tooLong →
      exec (.setLength c) s =
        .next { s with ctxs := s.ctxs.set c.toNat { s.ctx c.toNat with plen := s.arg0 }, err := 0 })

/-! ## Packets -/

/-- 41_packet.md R161, a data packet (F = 0): whatever LP, RP and the rest of ARG0 hold, only bit 31 of word 0 is cleared,
that is the top bit of header byte 0. -/
def Obligations.PackDataClearsFlagOnly : Prop :=
  ∀ (s : State) (c : Byte) (lp rp : Bool), s.Inv = true → s.arg0.toNat < 2 ^ 31 →
    (s.cfg.nCtx ≤ c.toNat → exec (.pack c lp rp) s = .next (s.failed 0x02)) ∧
    (c.toNat < s.cfg.nCtx → (s.ctx c.toNat).own = .owned → exec (.pack c lp rp) s = .next (s.failed 0x04)) ∧
    (c.toNat < s.cfg.nCtx → (s.ctx c.toNat).own = .borrowed → ¬MappedAll s.cfg (hdrByteAddr s c 0) 4 →
      exec (.pack c lp rp) s = .next (s.failed 0x0A)) ∧
    (c.toNat < s.cfg.nCtx → (s.ctx c.toNat).own = .borrowed → MappedAll s.cfg (hdrByteAddr s c 0) 4 →
      ∃ t, exec (.pack c lp rp) s = .next t ∧ t = { s with mem := t.mem, err := 0 } ∧
        ∀ x, t.byteAt x =
          if x = hdrByteAddr s c 0 then BitVec.ofNat 8 ((s.byteAt x).toNat % 128) else s.byteAt x)

/-- 41_packet.md R161, a control packet (F = 1) that passes its checks: word 0 becomes the type word, the lparam path
writes word 1 and leaves no payload, the rparam path references ARG2 and ARG3, neither path leaves no payload. -/
def Obligations.PackControlBuildsPacket : Prop :=
  ∀ (s : State) (c : Byte) (lp rp : Bool), s.Inv = true → c.toNat < s.cfg.nCtx →
    2 ^ 31 ≤ s.arg0.toNat → s.arg0.toNat % 2 ^ 16 = 0 → ¬(lp = true ∧ rp = true) →
    (s.ctx c.toNat).own = .borrowed →
    ¬(rp = true ∧ 0 < s.arg3.toNat ∧ 2 ^ 32 < s.arg2.toNat + s.arg3.toNat) →
    MappedAll s.cfg (hdrByteAddr s c 0) 4 → (lp = true → MappedAll s.cfg (hdrByteAddr s c 4) 4) →
    ∃ t, exec (.pack c lp rp) s = .next t ∧
      t = { s with
            mem := t.mem, err := 0,
            ctxs := s.ctxs.set c.toNat
              { s.ctx c.toNat with
                paddr := if rp = true then s.arg2 else 0, plen := if rp = true then s.arg3 else 0 } } ∧
      ∀ x, t.byteAt x =
        if hdrByteAddr s c 0 ≤ x ∧ x < hdrByteAddr s c 4 then
          storedByte s.cfg x (beByte s.arg0.toNat (x - hdrByteAddr s c 0))
        else if lp = true ∧ hdrByteAddr s c 4 ≤ x ∧ x < hdrByteAddr s c 8 then
          storedByte s.cfg x (beByte s.arg1.toNat (x - hdrByteAddr s c 4))
        else s.byteAt x

/-- 41_packet.md R161: the errors of a control PACK, in their order. -/
def Obligations.PackControlErrors : Prop :=
  ∀ (s : State) (c : Byte) (lp rp : Bool), 2 ^ 31 ≤ s.arg0.toNat →
    (s.cfg.nCtx ≤ c.toNat → exec (.pack c lp rp) s = .next (s.failed 0x02)) ∧
    (c.toNat < s.cfg.nCtx → s.arg0.toNat % 2 ^ 16 ≠ 0 ∨ (lp = true ∧ rp = true) →
      exec (.pack c lp rp) s = .next (s.failed 0x03)) ∧
    (c.toNat < s.cfg.nCtx → s.arg0.toNat % 2 ^ 16 = 0 → ¬(lp = true ∧ rp = true) →
      ((s.ctx c.toNat).own = .owned → exec (.pack c lp rp) s = .next (s.failed 0x04)) ∧
      ((s.ctx c.toNat).own = .borrowed →
        (rp = true ∧ 0 < s.arg3.toNat ∧ 2 ^ 32 < s.arg2.toNat + s.arg3.toNat →
          exec (.pack c lp rp) s = .next (s.failed 0x09)) ∧
        (¬(rp = true ∧ 0 < s.arg3.toNat ∧ 2 ^ 32 < s.arg2.toNat + s.arg3.toNat) →
          ¬MappedAll s.cfg (hdrByteAddr s c 0) 4 ∨ (lp = true ∧ ¬MappedAll s.cfg (hdrByteAddr s c 4) 4) →
          exec (.pack c lp rp) s = .next (s.failed 0x0A))))

/-- 41_packet.md R164: BIND, its errors in order, and the three registers it writes; no byte of memory changes. -/
def Obligations.BindRecordsDatagram : Prop :=
  ∀ (s : State) (c : Byte),
    (s.cfg.nCtx ≤ c.toNat → exec (.bind c) s = .next (s.failed 0x02)) ∧
    (c.toNat < s.cfg.nCtx → (s.ctx c.toNat).own = .owned → exec (.bind c) s = .next (s.failed 0x04)) ∧
    (c.toNat < s.cfg.nCtx → (s.ctx c.toNat).own = .borrowed → s.arg1.toNat < 20 →
      exec (.bind c) s = .next (s.failed 0x06)) ∧
    (c.toNat < s.cfg.nCtx → (s.ctx c.toNat).own = .borrowed → 20 ≤ s.arg1.toNat →
      2 ^ 32 < s.arg0.toNat + s.arg1.toNat → exec (.bind c) s = .next (s.failed 0x09)) ∧
    (c.toNat < s.cfg.nCtx → (s.ctx c.toNat).own = .borrowed → 20 ≤ s.arg1.toNat →
      s.arg0.toNat + s.arg1.toNat ≤ 2 ^ 32 →
      exec (.bind c) s =
        .next { s with
          ctxs := s.ctxs.set c.toNat
            { s.ctx c.toNat with
              hbase := s.arg0, paddr := BitVec.ofNat 32 ((s.arg0.toNat + 20) % 2 ^ 32), plen := s.arg1 - 20 },
          err := 0 })

/-- 41_packet.md R165: SET_PAYLOAD, its errors in order, and the two registers it writes. -/
def Obligations.SetPayloadRecordsRegion : Prop :=
  ∀ (s : State) (c : Byte),
    (s.cfg.nCtx ≤ c.toNat → exec (.setPayload c) s = .next (s.failed 0x02)) ∧
    (c.toNat < s.cfg.nCtx → (s.ctx c.toNat).own = .owned → exec (.setPayload c) s = .next (s.failed 0x04)) ∧
    (c.toNat < s.cfg.nCtx → (s.ctx c.toNat).own = .borrowed →
      0 < s.arg1.toNat ∧ 2 ^ 32 < s.arg0.toNat + s.arg1.toNat → exec (.setPayload c) s = .next (s.failed 0x09)) ∧
    (c.toNat < s.cfg.nCtx → (s.ctx c.toNat).own = .borrowed →
      s.arg1.toNat = 0 ∨ s.arg0.toNat + s.arg1.toNat ≤ 2 ^ 32 →
      exec (.setPayload c) s =
        .next { s with
          ctxs := s.ctxs.set c.toNat { s.ctx c.toNat with paddr := s.arg0, plen := s.arg1 }, err := 0 })

/-- 41_packet.md R166: RELEASE zeroes the window, returns the context to its reset registers, and frees an owned buffer
once; a borrowed context frees nothing. -/
def Obligations.ReleaseReturnsContextToReset : Prop :=
  ∀ (s : State) (c : Byte), s.Inv = true →
    (s.cfg.nCtx ≤ c.toNat → exec (.release c) s = .next (s.failed 0x02)) ∧
    (c.toNat < s.cfg.nCtx →
      ∃ t, exec (.release c) s = .next t ∧
        t = { s with
              mem := t.mem, err := 0,
              ctxs := s.ctxs.set c.toNat
                ⟨BitVec.ofNat 32 (s.cfg.winBase + 32 * c.toNat), 0, 0, 0, .borrowed⟩,
              live := if (s.ctx c.toNat).own = .owned then
                  s.live.erase ⟨c.toNat, (s.ctx c.toNat).paddr, (s.ctx c.toNat).ocap⟩
                else s.live,
              allocTrace := if (s.ctx c.toNat).own = .owned then
                  .free (s.ctx c.toNat).paddr :: s.allocTrace
                else s.allocTrace } ∧
        ∀ x, t.byteAt x =
          if s.cfg.winBase + 32 * c.toNat ≤ x ∧ x < s.cfg.winBase + 32 * c.toNat + 20 then 0 else s.byteAt x)

/-- 41_packet.md R163: a CLONE that passes its checks, with an answer Ok(a) under the allocator's contract lined up: the
header goes to the destination's window, the payload to the new buffer, both as they were before the command; the
destination owns the buffer, which is live; nothing else changes. -/
def Obligations.CloneCopiesHeaderAndPayload : Prop :=
  ∀ (s : State) (dst src : Byte) (a : Word) (answers : List (Option Word)) (x : Ctx),
    s.Inv = true → dst.toNat < s.cfg.nCtx → src.toNat < s.cfg.nCtx → src ≠ dst →
    x = s.ctx src.toNat → (s.ctx dst.toNat).own = .borrowed →
    MappedAll s.cfg x.hbase.toNat 20 → MappedAll s.cfg x.paddr.toNat x.plen.toNat →
    s.allocAnswers = some a :: answers → AllocContract s x.plen.toNat a.toNat →
    ∃ t, exec (.clone dst src) s = .next t ∧
      t = { s with
            mem := t.mem, err := 0, allocAnswers := answers,
            ctxs := s.ctxs.set dst.toNat
              ⟨BitVec.ofNat 32 (s.cfg.winBase + 32 * dst.toNat), a, x.plen, x.plen, .owned⟩,
            live := ⟨dst.toNat, a, x.plen⟩ :: s.live,
            allocTrace := .alloc x.plen (some a) :: s.allocTrace } ∧
      ∀ y, t.byteAt y =
        if s.cfg.winBase + 32 * dst.toNat ≤ y ∧ y < s.cfg.winBase + 32 * dst.toNat + 20 then
          s.byteAt (x.hbase.toNat + (y - (s.cfg.winBase + 32 * dst.toNat)))
        else if a.toNat ≤ y ∧ y < a.toNat + x.plen.toNat then s.byteAt (x.paddr.toNat + (y - a.toNat))
        else s.byteAt y

/-- 41_packet.md R163: the errors of CLONE in their order, the answer Fail among them; and the refusal of an answer that
breaks the allocator's contract (93 U9). -/
def Obligations.CloneErrors : Prop :=
  ∀ (s : State) (dst src : Byte) (x : Ctx), x = s.ctx src.toNat →
    (s.cfg.nCtx ≤ dst.toNat ∨ s.cfg.nCtx ≤ src.toNat → exec (.clone dst src) s = .next (s.failed 0x02)) ∧
    (dst.toNat < s.cfg.nCtx → src.toNat < s.cfg.nCtx →
      (src = dst → exec (.clone dst src) s = .next (s.failed 0x03)) ∧
      (src ≠ dst →
        ((s.ctx dst.toNat).own = .owned → exec (.clone dst src) s = .next (s.failed 0x04)) ∧
        ((s.ctx dst.toNat).own = .borrowed →
          (¬(MappedAll s.cfg x.hbase.toNat 20 ∧ MappedAll s.cfg x.paddr.toNat x.plen.toNat) →
            exec (.clone dst src) s = .next (s.failed 0x0A)) ∧
          (MappedAll s.cfg x.hbase.toNat 20 ∧ MappedAll s.cfg x.paddr.toNat x.plen.toNat →
            (∀ answers, s.allocAnswers = none :: answers →
              exec (.clone dst src) s =
                .next (State.failed
                  { s with allocAnswers := answers, allocTrace := .alloc x.plen none :: s.allocTrace } 0x0B)) ∧
            (∀ a answers, s.allocAnswers = some a :: answers → ¬AllocContract s x.plen.toNat a.toNat →
              exec (.clone dst src) s = .refused (.allocContract a))))))

/-- The MODEL's choice where no answer is lined up (notes/assumptions/5.md; 20_memory.md R70: "The answer is a draw"): the
draw is a free value, and CLONE completes with every one: E_ALLOC and nothing else, or the effect of an answer Ok(a)
under the contract. -/
def Obligations.CloneCompletesOnFreeDraw : Prop :=
  ∀ (s : State) (dst src : Byte), s.Inv = true → dst.toNat < s.cfg.nCtx → src.toNat < s.cfg.nCtx → src ≠ dst →
    (s.ctx dst.toNat).own = .borrowed → MappedAll s.cfg (s.ctx src.toNat).hbase.toNat 20 →
    MappedAll s.cfg (s.ctx src.toNat).paddr.toNat (s.ctx src.toNat).plen.toNat → s.allocAnswers = [] →
    ∃ t, exec (.clone dst src) s = .next t ∧
      (t = State.failed
          { s with
            draws := s.draws + 1, allocTrace := .alloc (s.ctx src.toNat).plen none :: s.allocTrace } 0x0B ∨
        ∃ (a : Word) (x : Ctx), x = s.ctx src.toNat ∧ AllocContract s x.plen.toNat a.toNat ∧
          t = { s with
                mem := t.mem, err := 0, draws := s.draws + 1,
                ctxs := s.ctxs.set dst.toNat
                  ⟨BitVec.ofNat 32 (s.cfg.winBase + 32 * dst.toNat), a, x.plen, x.plen, .owned⟩,
                live := ⟨dst.toNat, a, x.plen⟩ :: s.live,
                allocTrace := .alloc x.plen (some a) :: s.allocTrace } ∧
          ∀ y, t.byteAt y =
            if s.cfg.winBase + 32 * dst.toNat ≤ y ∧ y < s.cfg.winBase + 32 * dst.toNat + 20 then
              s.byteAt (x.hbase.toNat + (y - (s.cfg.winBase + 32 * dst.toNat)))
            else if a.toNat ≤ y ∧ y < a.toNat + x.plen.toNat then s.byteAt (x.paddr.toNat + (y - a.toNat))
            else s.byteAt y)

/-! ## Frame metadata -/

/-- 42_frame_metadata.md R200, R201, R203, R205, R207: the frame getters, their errors in order, and their results, every
value unsigned. -/
def Obligations.FrameGettersReturnTheirBits : Prop :=
  ∀ (s : State) (c : Byte),
    (s.cfg.nCtx ≤ c.toNat →
      ∀ i ∈ [Instr.getFrameId c, .getChunkId c, .getTotalChunks c, .getFrameDeadline c],
        exec i s = .next (s.failed 0x02)) ∧
    (c.toNat < s.cfg.nCtx → ¬MappedAll s.cfg (hdrByteAddr s c 16) 4 →
      ∀ i ∈ [Instr.getFrameId c, .getChunkId c, .getTotalChunks c], exec i s = .next (s.failed 0x0A)) ∧
    (c.toNat < s.cfg.nCtx → ¬MappedAll s.cfg (hdrByteAddr s c 8) 4 →
      exec (.getFrameDeadline c) s = .next (s.failed 0x0A)) ∧
    (c.toNat < s.cfg.nCtx → MappedAll s.cfg (hdrByteAddr s c 16) 4 →
      exec (.getFrameId c) s = .next { s with res0 := BitVec.ofNat 32 (hdrValue s c 4 / 2 ^ 16), err := 0 } ∧
      exec (.getChunkId c) s = .next { s with res0 := BitVec.ofNat 32 (hdrValue s c 4 / 2 ^ 8 % 256), err := 0 } ∧
      exec (.getTotalChunks c) s = .next { s with res0 := BitVec.ofNat 32 (hdrValue s c 4 % 256), err := 0 }) ∧
    (c.toNat < s.cfg.nCtx → MappedAll s.cfg (hdrByteAddr s c 8) 4 →
      exec (.getFrameDeadline c) s = .next { s with res0 := BitVec.ofNat 32 (hdrValue s c 2), err := 0 })

/-- 42_frame_metadata.md R200, R202, R204, R206: the setters of word 4, their errors in order, and the bytes they store:
SET_FRAMEID header bytes 16 and 17, SET_CHUNKID byte 18, SET_TOTALCHUNKS byte 19, the operand truncated. -/
def Obligations.FrameSettersStoreTheirBytes : Prop :=
  ∀ (s : State) (c : Byte), s.Inv = true →
    (s.cfg.nCtx ≤ c.toNat →
      ∀ i ∈ [Instr.setFrameId c, .setChunkId c, .setTotalChunks c], exec i s = .next (s.failed 0x02)) ∧
    (c.toNat < s.cfg.nCtx → ¬MappedAll s.cfg (hdrByteAddr s c 16) 4 →
      ∀ i ∈ [Instr.setFrameId c, .setChunkId c, .setTotalChunks c], exec i s = .next (s.failed 0x0A)) ∧
    (c.toNat < s.cfg.nCtx → MappedAll s.cfg (hdrByteAddr s c 16) 4 →
      (∃ t, exec (.setFrameId c) s = .next t ∧ t = { s with mem := t.mem, err := 0 } ∧
        ∀ x, t.byteAt x =
          if x = hdrByteAddr s c 16 then storedByte s.cfg x (BitVec.ofNat 8 (s.arg0.toNat / 2 ^ 8))
          else if x = hdrByteAddr s c 17 then storedByte s.cfg x (BitVec.ofNat 8 s.arg0.toNat)
          else s.byteAt x) ∧
      (∃ t, exec (.setChunkId c) s = .next t ∧ t = { s with mem := t.mem, err := 0 } ∧
        ∀ x, t.byteAt x =
          if x = hdrByteAddr s c 18 then storedByte s.cfg x (BitVec.ofNat 8 s.arg0.toNat) else s.byteAt x) ∧
      ∃ t, exec (.setTotalChunks c) s = .next t ∧ t = { s with mem := t.mem, err := 0 } ∧
        ∀ x, t.byteAt x =
          if x = hdrByteAddr s c 19 then storedByte s.cfg x (BitVec.ofNat 8 s.arg0.toNat) else s.byteAt x)

/-- 42_frame_metadata.md R208: SET_FRAMEDEADLINE, its errors in order, and the four bytes it stores. -/
def Obligations.SetFrameDeadlineStoresWordTwo : Prop :=
  ∀ (s : State) (c : Byte), s.Inv = true →
    (s.cfg.nCtx ≤ c.toNat → exec (.setFrameDeadline c) s = .next (s.failed 0x02)) ∧
    (c.toNat < s.cfg.nCtx → ¬MappedAll s.cfg (hdrByteAddr s c 8) 4 →
      exec (.setFrameDeadline c) s = .next (s.failed 0x0A)) ∧
    (c.toNat < s.cfg.nCtx → MappedAll s.cfg (hdrByteAddr s c 8) 4 →
      ∃ t, exec (.setFrameDeadline c) s = .next t ∧ t = { s with mem := t.mem, err := 0 } ∧
        ∀ x, t.byteAt x =
          if hdrByteAddr s c 8 ≤ x ∧ x < hdrByteAddr s c 12 then
            storedByte s.cfg x (beByte s.arg0.toNat (x - hdrByteAddr s c 8))
          else s.byteAt x)

/-- 42_frame_metadata.md R210: what a frame setter stores, its getter returns, modulo the field's width. The premise that
the header does not lie over reserved window bytes is the model's reading of R210 beside 20_memory.md R67
(notes/assumptions/11.md). -/
def Obligations.FrameMaskingLaw : Prop :=
  ∀ (s : State) (c : Byte) (v : Word), s.Inv = true → c.toNat < s.cfg.nCtx →
    (∀ k < 20, reservedByte s.cfg (hdrByteAddr s c k) = false) →
    MappedAll s.cfg (hdrByteAddr s c 0) 20 →
    (∃ t u, exec (.setFrameId c) { s with arg0 := v } = .next t ∧ exec (.getFrameId c) t = .next u ∧
      u.err = 0 ∧ u.res0.toNat = v.toNat % 65536) ∧
    (∃ t u, exec (.setChunkId c) { s with arg0 := v } = .next t ∧ exec (.getChunkId c) t = .next u ∧
      u.err = 0 ∧ u.res0.toNat = v.toNat % 256) ∧
    (∃ t u, exec (.setTotalChunks c) { s with arg0 := v } = .next t ∧ exec (.getTotalChunks c) t = .next u ∧
      u.err = 0 ∧ u.res0.toNat = v.toNat % 256) ∧
    ∃ t u, exec (.setFrameDeadline c) { s with arg0 := v } = .next t ∧ exec (.getFrameDeadline c) t = .next u ∧
      u.err = 0 ∧ u.res0 = v

/-- 42_frame_metadata.md R209: writing one of frame identifier, chunk identifier, total-chunk-count and frame deadline
alters neither the other three nor the words that hold the other fields, and no byte but its own. -/
def Obligations.FrameFieldsAreIndependent : Prop :=
  ∀ (s t : State) (c : Byte), s.Inv = true →
    (exec (.setFrameId c) s = .next t →
      hdrValue t c 4 % 2 ^ 16 = hdrValue s c 4 % 2 ^ 16 ∧ (∀ w ∈ [0, 1, 2, 3], hdrValue t c w = hdrValue s c w) ∧
      ∀ x, x ≠ hdrByteAddr s c 16 → x ≠ hdrByteAddr s c 17 → t.byteAt x = s.byteAt x) ∧
    (exec (.setChunkId c) s = .next t →
      hdrValue t c 4 / 2 ^ 16 = hdrValue s c 4 / 2 ^ 16 ∧ hdrValue t c 4 % 2 ^ 8 = hdrValue s c 4 % 2 ^ 8 ∧
      (∀ w ∈ [0, 1, 2, 3], hdrValue t c w = hdrValue s c w) ∧
      ∀ x, x ≠ hdrByteAddr s c 18 → t.byteAt x = s.byteAt x) ∧
    (exec (.setTotalChunks c) s = .next t →
      hdrValue t c 4 / 2 ^ 8 = hdrValue s c 4 / 2 ^ 8 ∧ (∀ w ∈ [0, 1, 2, 3], hdrValue t c w = hdrValue s c w) ∧
      ∀ x, x ≠ hdrByteAddr s c 19 → t.byteAt x = s.byteAt x) ∧
    (exec (.setFrameDeadline c) s = .next t →
      (∀ w ∈ [0, 1, 3, 4], hdrValue t c w = hdrValue s c w) ∧
      ∀ x, ¬(hdrByteAddr s c 8 ≤ x ∧ x ≤ hdrByteAddr s c 11) → t.byteAt x = s.byteAt x)

/-- 10_state.md R37: GET_WORD and SET_WORD with index 2 reach the same 32 bits as the frame deadline's accessors. -/
def Obligations.DeadlineAndTimestampShareWordTwo : Prop :=
  ∀ (s t u : State) (c : Byte) (v : Word),
    (s.arg0 = 2 → exec (.getWord c) s = exec (.getFrameDeadline c) s) ∧
    (exec (.setWord c) { s with arg0 := 2, arg1 := v } = .next t →
      exec (.setFrameDeadline c) { s with arg0 := v } = .next u →
      t.err = u.err ∧ ∀ x, t.byteAt x = u.byteAt x)

/-! ## Handshake -/

/-- 43_handshake.md R232 to R234: HS_NEW, HS_GET and HS_SET, with their errors in order. -/
def Obligations.HandshakeFieldCommands : Prop :=
  ∀ s : State,
    exec .hsNew s = .next { s with hs := ⟨0, 0, 0, 0, 0, 0, 0, 0, 0, 0, 0, 0⟩, sealed := false, err := 0 } ∧
    (11 < s.arg0.toNat → exec .hsGet s = .next (s.failed 0x03) ∧ exec .hsSet s = .next (s.failed 0x03)) ∧
    (s.arg0.toNat ≤ 11 →
      exec .hsGet s =
        .next { s with
          res0 := [s.hs.version, s.hs.sockType, s.hs.isn, s.hs.mss, s.hs.flowWin, s.hs.reqType, s.hs.sockId,
            s.hs.cookie, s.hs.peerIp0, s.hs.peerIp1, s.hs.peerIp2, s.hs.peerIp3].getD s.arg0.toNat 0,
          err := 0 } ∧
      (s.sealed = true → exec .hsSet s = .next (s.failed 0x05)) ∧
      (s.sealed = false →
        ∃ t, exec .hsSet s = .next t ∧ t = { s with hs := t.hs, err := 0 } ∧
          ∀ k < 12, t.hs.get k = if k = s.arg0.toNat then s.arg1 else s.hs.get k))

/-- 43_handshake.md R231, R235: HS_SERIALIZE, its errors in order, and its effect: field k in bytes 4k to 4k+3 of the
buffer, big-endian, no other byte; SEALED set; RES0 = 48. -/
def Obligations.SerializeWritesRecord : Prop :=
  ∀ s : State, s.Inv = true →
    (s.arg1.toNat < 48 → exec .hsSerialize s = .next (s.failed 0x07)) ∧
    (48 ≤ s.arg1.toNat → 2 ^ 32 < s.arg0.toNat + 48 → exec .hsSerialize s = .next (s.failed 0x09)) ∧
    (48 ≤ s.arg1.toNat → s.arg0.toNat + 48 ≤ 2 ^ 32 → ¬MappedAll s.cfg s.arg0.toNat 48 →
      exec .hsSerialize s = .next (s.failed 0x0A)) ∧
    (48 ≤ s.arg1.toNat → s.arg0.toNat + 48 ≤ 2 ^ 32 → MappedAll s.cfg s.arg0.toNat 48 →
      ∃ t, exec .hsSerialize s = .next t ∧
        t = { s with mem := t.mem, sealed := true, res0 := 48, err := 0 } ∧
        ∀ x, t.byteAt x =
          if s.arg0.toNat ≤ x ∧ x < s.arg0.toNat + 48 then
            storedByte s.cfg x
              (beByte (s.hs.get ((x - s.arg0.toNat) / 4)).toNat ((x - s.arg0.toNat) % 4))
          else s.byteAt x)

/-- 43_handshake.md R231, R236: HS_DESERIALIZE, its errors in order, and its effect: word k from bytes 4k to 4k+3,
big-endian; RES0 = 48; no byte of memory changes. -/
def Obligations.DeserializeReadsRecord : Prop :=
  ∀ s : State,
    (s.sealed = true → exec .hsDeserialize s = .next (s.failed 0x05)) ∧
    (s.sealed = false → s.arg1.toNat < 48 → exec .hsDeserialize s = .next (s.failed 0x08)) ∧
    (s.sealed = false → 48 ≤ s.arg1.toNat → 2 ^ 32 < s.arg0.toNat + 48 →
      exec .hsDeserialize s = .next (s.failed 0x09)) ∧
    (s.sealed = false → 48 ≤ s.arg1.toNat → s.arg0.toNat + 48 ≤ 2 ^ 32 → ¬MappedAll s.cfg s.arg0.toNat 48 →
      exec .hsDeserialize s = .next (s.failed 0x0A)) ∧
    (s.sealed = false → 48 ≤ s.arg1.toNat → s.arg0.toNat + 48 ≤ 2 ^ 32 → MappedAll s.cfg s.arg0.toNat 48 →
      ∃ t, exec .hsDeserialize s = .next t ∧ t = { s with hs := t.hs, res0 := 48, err := 0 } ∧
        ∀ k < 12, (t.hs.get k).toNat =
          (s.byteAt (s.arg0.toNat + 4 * k)).toNat * 2 ^ 24 + (s.byteAt (s.arg0.toNat + 4 * k + 1)).toNat * 2 ^ 16 +
            (s.byteAt (s.arg0.toNat + 4 * k + 2)).toNat * 2 ^ 8 + (s.byteAt (s.arg0.toNat + 4 * k + 3)).toNat)

/-- 43_handshake.md R237: serialize, a fresh record, deserialize give the record back, for every record. The premise that
the buffer does not lie over reserved window bytes is the model's reading of R237 beside 20_memory.md R67
(notes/assumptions/11.md). -/
def Obligations.HandshakeRoundTrip : Prop :=
  ∀ (s : State) (a cap n : Word), s.Inv = true → a.toNat + 48 ≤ 2 ^ 32 → MappedAll s.cfg a.toNat 48 →
    (∀ k < 48, reservedByte s.cfg (a.toNat + k) = false) → 48 ≤ cap.toNat → 48 ≤ n.toNat →
    ∃ t u v, exec .hsSerialize { s with arg0 := a, arg1 := cap } = .next t ∧
      exec .hsNew t = .next u ∧ u.hs = ⟨0, 0, 0, 0, 0, 0, 0, 0, 0, 0, 0, 0⟩ ∧
      exec .hsDeserialize { u with arg0 := a, arg1 := n } = .next v ∧ v.err = 0 ∧ v.hs = s.hs

/-- 43_handshake.md R238: for every n < 48 HS_DESERIALIZE raises E_HS_SIZE, or E_HS_SEALED before it, and the record and
SEALED are as before. -/
def Obligations.ShortDeserializeFails : Prop :=
  ∀ s : State, s.arg1.toNat < 48 →
    ∃ t, exec .hsDeserialize s = .next t ∧ t.err = (if s.sealed = true then 0x05 else 0x08) ∧
      t.hs = s.hs ∧ t.sealed = s.sealed

/-! ## The whole machine -/

/-- The invariant of the machine is kept by every step, whatever the input: 10_state.md R43 for every context, parameters
within 00_scope.md R9, live buffers inside M, memory in canonical form, ERR a code of 60_exceptions.md R261. -/
def Obligations.StepKeepsInvariant : Prop :=
  ∀ s t : State, s.Inv = true → step s = .next t → t.Inv = true

/-- 10_state.md R49: the state after reset meets the invariant, under every choice of the parameters within R9. -/
def Obligations.ResetMeetsInvariant : Prop :=
  State.reset.Inv = true ∧ ∀ cfg : Config, cfg.wellFormed = true → (State.resetOf cfg).Inv = true

/-- 10_state.md R49: the reset values, under every choice of the parameters within R9. -/
def Obligations.ResetValuesAsListed : Prop :=
  ∀ (cfg : Config) (s : State), cfg.wellFormed = true → s = State.resetOf cfg →
    s.cmd = 0 ∧ s.statusWord = 0 ∧ s.err = 0 ∧ s.anyErr = false ∧
    s.arg0 = 0 ∧ s.arg1 = 0 ∧ s.arg2 = 0 ∧ s.arg3 = 0 ∧ s.res0 = 0 ∧ s.res1 = 0 ∧ s.res2 = 0 ∧ s.res3 = 0 ∧
    s.ctxs.length = cfg.nCtx ∧
    (∀ c < cfg.nCtx,
      s.ctxs[c]? = some ⟨BitVec.ofNat 32 (cfg.winBase + 32 * c), 0, 0, 0, .borrowed⟩ ∧
      ∀ k < 20, s.byteAt (cfg.winBase + 32 * c + k) = 0) ∧
    (∀ k < 12, s.hs.get k = 0) ∧ s.sealed = false

/-- 10_state.md R43: every command keeps (a) to (d) for every context. -/
def Obligations.CommandsKeepContextInvariants : Prop :=
  ∀ (s t : State) (i : Instr), s.Inv = true → exec i s = .next t →
    ∀ c < s.cfg.nCtx,
      ((t.ctx c).plen = 0 ∨ (t.ctx c).paddr.toNat + (t.ctx c).plen.toNat ≤ 2 ^ 32) ∧
      (t.ctx c).hbase.toNat + 20 ≤ 2 ^ 32 ∧
      ((t.ctx c).own = .owned →
        (t.ctx c).hbase.toNat = s.cfg.winBase + 32 * c ∧ (t.ctx c).plen.toNat ≤ (t.ctx c).ocap.toNat ∧
        ⟨c, (t.ctx c).paddr, (t.ctx c).ocap⟩ ∈ t.live) ∧
      ((t.ctx c).own = .borrowed → (t.ctx c).ocap = 0)

/-- 60_exceptions.md R262: a command that ends with an error has changed nothing but STATUS, no Free is called, and an
Alloc request was made only by a CLONE that was answered Fail; one that ends without an error leaves ANYERR as it was. -/
def Obligations.FailingCommandChangesOnlyStatus : Prop :=
  ∀ (s t : State) (i : Instr), exec i s = .next t →
    (t.err = 0 → t.anyErr = s.anyErr) ∧
    (t.err ≠ 0 →
      t = { s.failed t.err with
            allocAnswers := t.allocAnswers, draws := t.draws, allocTrace := t.allocTrace } ∧
      ((t.allocAnswers = s.allocAnswers ∧ t.draws = s.draws ∧ t.allocTrace = s.allocTrace) ∨
        ∃ dst src n, i = .clone dst src ∧ t.err = 0x0B ∧ t.allocTrace = .alloc n none :: s.allocTrace))

/-- 30_encoding.md R97, 10_state.md R23, R26: a command writes only the result registers listed for it, and none of the
registers the host writes, the parameters or the host's streams. -/
def Obligations.CommandsWriteOnlyListedResults : Prop :=
  ∀ (s t : State) (i : Instr), exec i s = .next t →
    (∀ j, j ∉ resWritten i → t.res j = s.res j) ∧
    t.cmd = s.cmd ∧ t.arg0 = s.arg0 ∧ t.arg1 = s.arg1 ∧ t.arg2 = s.arg2 ∧ t.arg3 = s.arg3 ∧
    t.cfg = s.cfg ∧ t.inputs = s.inputs ∧ t.hostReads = s.hostReads

/-- 30_encoding.md R97: a command reads only the ARG registers listed for it: another value in any other one is carried
through and changes nothing. -/
def Obligations.CommandsReadOnlyListedArgs : Prop :=
  ∀ (s t : State) (i : Instr) (j : Fin 4) (v : Word), j ∉ argsRead i → exec i s = .next t →
    exec i (s.setArg j v) = .next (t.setArg j v)

/-- 10_state.md R29: no command reads STATUS.ERR or STATUS.ANYERR: under other values it does the same, and ANYERR is then
the other value, or 1 where the command ends with an error. -/
def Obligations.CommandsDoNotReadStatus : Prop :=
  ∀ (s t : State) (i : Instr) (e : BitVec 8) (b : Bool), exec i s = .next t →
    exec i { s with err := e, anyErr := b } = .next { t with anyErr := if t.err = 0 then b else true }

/-- 20_memory.md R66, 60_exceptions.md R262: a command changes no byte of memory outside the regions its rule stores to,
and none where it ends with an error. -/
def Obligations.CommandsStoreOnlyToTheirRegions : Prop :=
  ∀ (s t : State) (i : Instr) (x : Nat), s.Inv = true → exec i s = .next t →
    t.err ≠ 0 ∨ (∀ r ∈ storeRegions s t i, ¬(r.1 ≤ x ∧ x < r.1 + r.2)) → t.byteAt x = s.byteAt x

/-- 10_state.md R31: OWN becomes 1 only through CLONE and becomes 0 only through RELEASE or reset. -/
def Obligations.OwnershipChangesOnlyByCloneReleaseReset : Prop :=
  ∀ (s t : State) (x : Input) (rest : List Input) (c : Nat), s.Inv = true → c < s.cfg.nCtx →
    s.inputs = x :: rest → step s = .next t → (t.ctx c).own ≠ (s.ctx c).own →
    ((t.ctx c).own = .owned ∧ ∃ w dst src, decode w = .ok (.clone dst src) ∧ dst.toNat = c ∧
      ((∃ off, x = .portWrite off .bits32 w) ∨ ∃ stores, x = .cmdRaced w stores)) ∨
    ((t.ctx c).own = .borrowed ∧ (x = .platformReset ∨ ∃ w d, decode w = .ok (.release d) ∧ d.toNat = c ∧
      ((∃ off, x = .portWrite off .bits32 w) ∨ ∃ stores, x = .cmdRaced w stores)))

/-- 10_state.md R46: among the commands SEALED is set only by an HS_SERIALIZE that succeeds and cleared only by HS_NEW,
and while it is 1 no command but HS_NEW changes the record. -/
def Obligations.SealedChangesAsListed : Prop :=
  ∀ (s t : State) (i : Instr), exec i s = .next t →
    (s.sealed = false → t.sealed = true → i = .hsSerialize ∧ t.err = 0) ∧
    (s.sealed = true → t.sealed = false → i = .hsNew) ∧
    (s.sealed = true → t.hs ≠ s.hs → i = .hsNew)

/-- 20_memory.md R71: a command calls Free only where it is RELEASE of an OWNED context, once, with that context's PADDR;
it makes an Alloc request only where it is CLONE, for the source's PLEN. -/
def Obligations.AllocatorCallsAsListed : Prop :=
  ∀ (s t : State) (i : Instr), exec i s = .next t →
    t.allocTrace = s.allocTrace ∨
    (∃ c : Byte, i = .release c ∧ (s.ctx c.toNat).own = .owned ∧
      t.allocTrace = .free (s.ctx c.toNat).paddr :: s.allocTrace) ∨
    ∃ (dst src : Byte) (answer : Option Word), i = .clone dst src ∧
      t.allocTrace = .alloc (s.ctx src.toNat).plen answer :: s.allocTrace

/-- 60_exceptions.md R260: every command ends, and so does every other input the spec defines: the step answers a next
state, but where the input runs a CLONE for which an answer is lined up that breaks the allocator's contract (93 U9; the
refusal is the model's form of it, notes/assumptions/5.md). -/
def Obligations.DefinedInputsComplete : Prop :=
  ∀ (s : State) (x : Input) (rest : List Input), s.inputs = x :: rest → inputDefined s x = true →
    (∃ t, step s = .next t) ∨
    ∃ w dst src a answers, (x = .portWrite 0x00 .bits32 w ∨ ∃ stores, x = .cmdRaced w stores) ∧
      decode w = .ok (.clone dst src) ∧ s.allocAnswers = some a :: answers ∧
      ¬AllocContract s (s.ctx src.toNat).plen.toNat a.toNat ∧ step s = .refused (.allocContract a)

/-- 10_state.md R27: ANYERR is cleared only by a host write of STATUS with bit 9 = 1, or by reset. -/
def Obligations.AnyErrIsSticky : Prop :=
  ∀ s t : State, step s = .next t → s.anyErr = true → t.anyErr = false →
    ∃ rest, s.inputs = .platformReset :: rest ∨
      ∃ off v, s.inputs = .portWrite off .bits32 v :: rest ∧ off.toNat = 0x04 ∧ v.toNat / 2 ^ 9 % 2 = 1

/-- 70_reset_and_hazards.md R290, R292: the reset event gives every piece of block state its reset value in one step and
calls no Free; what the allocator holds live stays. -/
def Obligations.PlatformResetRestoresBlock : Prop :=
  ∀ (s : State) (rest : List Input), s.Inv = true → s.inputs = .platformReset :: rest →
    ∃ t, step s = .next t ∧
      t = { State.resetOf s.cfg with
            mem := t.mem, live := s.live, allocAnswers := s.allocAnswers, inputs := rest, draws := t.draws,
            hostReads := s.hostReads, allocTrace := s.allocTrace } ∧
      ∀ c < s.cfg.nCtx, ∀ k < 32, t.byteAt (s.cfg.winBase + 32 * c + k) = 0

/-- 70_reset_and_hazards.md R308, the bound. The step that takes a racing CMD write is raceWith under some picks. There,
each byte the command reads, in its first reads and in the second reads of CLONE's payload, is the value held before or
one being written, and each racing byte ends with one of the values written to it, the command's own among them; every
other byte is as the command left it. That the bytes a frame setter writes back unchanged count as written by it is the
model's reading of 20_memory.md R77 (notes/assumptions/7.md). -/
def Obligations.RaceOutcomesAreBounded : Prop :=
  (∀ (s : State) (w : Word) (stores : List (Word × Byte)) (rest : List Input),
    s.inputs = .cmdRaced w stores :: rest → (∀ x ∈ stores, MappedAt s.cfg x.1.toNat) →
    ∃ pick : Nat → Nat, step s = raceWith pick w stores { s with inputs := rest }) ∧
  ∀ (pick : Nat → Nat) (w : Word) (stores : List (Word × Byte)) (s t : State), s.Inv = true →
    raceWith pick w stores s = .next t →
    ∃ view second u : State,
      view = { s with mem := view.mem, draws := s.draws + 1 } ∧
      second = { s with mem := second.mem, draws := s.draws + 1 } ∧
      (∀ y, view.byteAt y = s.byteAt y ∨ view.byteAt y ∈ racedValues stores y) ∧
      (∀ y, second.byteAt y = s.byteAt y ∨ second.byteAt y ∈ racedValues stores y) ∧
      issueReading second w view = .next u ∧ t = { u with mem := t.mem } ∧
      ∀ y, (racedValues stores y = [] → t.byteAt y = u.byteAt y) ∧
        (racedValues stores y ≠ [] → reservedByte s.cfg y = false →
          t.byteAt y ∈ racedValues stores y ∨ (commandStores w view u y = true ∧ t.byteAt y = u.byteAt y))

/-- 70_reset_and_hazards.md R308, "a model must admit every outcome". The step that takes a racing CMD write is raceWith
under some picks. For any choice of what each racing byte is in the first reads and, independently, in the second reads
of CLONE's payload, some picks give it; and for the command's outcome u on those reads and any choice of what is left,
among the values stored and the command's own byte where it stores one, picks with the same reads end in it. Which bytes
count as stored by the command: notes/assumptions/7.md. -/
def Obligations.RaceAdmitsEveryOutcome : Prop :=
  (∀ (s : State) (w : Word) (stores : List (Word × Byte)) (rest : List Input),
    s.inputs = .cmdRaced w stores :: rest → (∀ x ∈ stores, MappedAt s.cfg x.1.toNat) →
    ∃ pick : Nat → Nat, step s = raceWith pick w stores { s with inputs := rest }) ∧
  ∀ (w : Word) (stores : List (Word × Byte)) (s : State) (readValue secondValue : Nat → Byte), s.Inv = true →
    (∀ x ∈ stores, readValue x.1.toNat = s.byteAt x.1.toNat ∨
      readValue x.1.toNat ∈ racedValues stores x.1.toNat) →
    (∀ x ∈ stores, secondValue x.1.toNat = s.byteAt x.1.toNat ∨
      secondValue x.1.toNat ∈ racedValues stores x.1.toNat) →
    ∃ pick : Nat → Nat,
      (∀ x ∈ stores, reservedByte s.cfg x.1.toNat = false →
        (raceView pick stores s).byteAt x.1.toNat = readValue x.1.toNat ∧
        (racePayload pick stores s).byteAt x.1.toNat = secondValue x.1.toNat) ∧
      ∀ (u : State) (endValue : Nat → Byte),
        issueReading (racePayload pick stores s) w (raceView pick stores s) = .next u →
        (∀ x ∈ stores, endValue x.1.toNat ∈ racedValues stores x.1.toNat ∨
          (commandStores w (raceView pick stores s) u x.1.toNat = true ∧
            endValue x.1.toNat = u.byteAt x.1.toNat)) →
        ∃ (pick' : Nat → Nat) (t : State),
          raceView pick' stores s = raceView pick stores s ∧
          racePayload pick' stores s = racePayload pick stores s ∧
          raceWith pick' w stores s = .next t ∧
          ∀ x ∈ stores, reservedByte s.cfg x.1.toNat = false → t.byteAt x.1.toNat = endValue x.1.toNat

/-- 20_memory.md R64, R70: the checks of a region, made on its bounds, say what the rules say of each of its addresses. -/
def Obligations.RegionChecksAreByteWise : Prop :=
  (∀ (cfg : Config) (a n : Nat), 0 < n → (mappedRegion cfg (a, n) = true ↔ MappedAll cfg a n)) ∧
  ∀ (s : State) (n a : Word), allocOk s n a = true ↔ AllocContract s n.toNat a.toNat

/-- 20_memory.md R67, 10_state.md R33: a store by the host or the datapath to byte k of a window is kept for k < 20 and
ignored for the reserved bytes, which read 0; no other byte changes. -/
def Obligations.WindowBytesAsListed : Prop :=
  ∀ (s : State) (c k : Nat) (b : Byte) (rest : List Input), s.Inv = true → c < s.cfg.nCtx → k < 32 →
    s.inputs = .memWrite8 (BitVec.ofNat 32 (s.cfg.winBase + 32 * c + k)) b :: rest →
    ∃ t, step s = .next t ∧ t = { s with mem := t.mem, inputs := rest } ∧
      (k < 20 → t.byteAt (s.cfg.winBase + 32 * c + k) = b) ∧
      (20 ≤ k → t.byteAt (s.cfg.winBase + 32 * c + k) = 0 ∧ t.mem = s.mem) ∧
      ∀ x, x ≠ s.cfg.winBase + 32 * c + k → t.byteAt x = s.byteAt x

/-- 41_packet.md R168: the situation of a context changes only as R168 lists, in a command that succeeds: BIND from own or
bound gives bound, CLONE as destination from own or bound gives owned, RELEASE gives own; no context is ever in a fourth
situation. That BIND gives own again where the datagram stands at the context's own window is no clause of R168 but the
model's reading of R164 beside it (notes/assumptions/11.md). -/
def Obligations.ContextLifecycle : Prop :=
  ∀ (s t : State) (i : Instr) (c : Byte), s.Inv = true → c.toNat < s.cfg.nCtx → exec i s = .next t →
    situation t c.toNat ≠ .broken ∧
    (situation t c.toNat = situation s c.toNat ∨
      (i = .bind c ∧ t.err = 0 ∧ situation s c.toNat ≠ .ownedClone ∧
        situation t c.toNat = (if s.arg0.toNat = s.cfg.winBase + 32 * c.toNat then .ownPacket else .bound)) ∨
      (∃ src, i = .clone c src ∧ t.err = 0 ∧ situation s c.toNat ≠ .ownedClone ∧
        situation t c.toNat = .ownedClone) ∨
      (i = .release c ∧ t.err = 0 ∧ situation t c.toNat = .ownPacket))

/-- 41_packet.md R169: after a CLONE that succeeds, where the source does not lie over the destination's window, header
and payload of the two are equal byte for byte, their regions are disjoint, and no command on the one, whatever its
operands and the allocator's answers, changes a byte of the other. -/
def Obligations.CloneIsIndependent : Prop :=
  ∀ (s t : State) (dst src : Byte) (x y : Ctx), s.Inv = true → exec (.clone dst src) s = .next t → t.err = 0 →
    x = t.ctx src.toNat → y = t.ctx dst.toNat →
    overlaps (winAddr s.cfg dst.toNat, 20) (x.hbase.toNat, 20) = false →
    overlaps (winAddr s.cfg dst.toNat, 20) (x.paddr.toNat, x.plen.toNat) = false →
    y.plen = x.plen ∧
    (∀ k < 20, t.byteAt (y.hbase.toNat + k) = t.byteAt (x.hbase.toNat + k)) ∧
    (∀ k < x.plen.toNat, t.byteAt (y.paddr.toNat + k) = t.byteAt (x.paddr.toNat + k)) ∧
    (∀ r ∈ [(y.hbase.toNat, 20), (y.paddr.toNat, y.plen.toNat)],
      ∀ q ∈ [(x.hbase.toNat, 20), (x.paddr.toNat, x.plen.toNat)], overlaps r q = false) ∧
    ∀ (u v : State) (i : Instr) (z : Nat),
      v = { t with
            arg0 := v.arg0, arg1 := v.arg1, arg2 := v.arg2, arg3 := v.arg3, allocAnswers := v.allocAnswers } →
      i.fields.usesCtx = true → exec i v = .next u →
      (i.fields.ctx = dst.toNat →
        inRegion (x.hbase.toNat, 20) z = true ∨ inRegion (x.paddr.toNat, x.plen.toNat) z = true →
        u.byteAt z = t.byteAt z) ∧
      (i.fields.ctx = src.toNat →
        inRegion (y.hbase.toNat, 20) z = true ∨ inRegion (y.paddr.toNat, y.plen.toNat) z = true →
        u.byteAt z = t.byteAt z)

/-- 30_encoding.md R104, 20_memory.md R62, R67, R74: MW8, MW32 and MR32, the accesses of the host or the datapath to
memory, big-endian, at any byte address: the bytes stored and no other, the word returned. Where a byte is not mapped the
machine stops with a fault, the model's choice (notes/assumptions/9.md). -/
def Obligations.AgentAccessesReadAndStore : Prop :=
  ∀ (s : State) (a v : Word) (b : Byte) (rest : List Input), s.Inv = true →
    (s.inputs = .memWrite8 a b :: rest →
      (¬MappedAt s.cfg a.toNat → step s = .fault (.agentAccess a.toNat)) ∧
      (MappedAt s.cfg a.toNat →
        ∃ t, step s = .next t ∧ t = { s with mem := t.mem, inputs := rest } ∧
          ∀ x, t.byteAt x = if x = a.toNat then storedByte s.cfg x b else s.byteAt x)) ∧
    (s.inputs = .memWrite32 a v :: rest →
      (¬MappedAll s.cfg a.toNat 4 → step s = .fault (.agentAccess a.toNat)) ∧
      (MappedAll s.cfg a.toNat 4 →
        ∃ t, step s = .next t ∧ t = { s with mem := t.mem, inputs := rest } ∧
          ∀ x, t.byteAt x =
            if a.toNat ≤ x ∧ x < a.toNat + 4 then storedByte s.cfg x (beByte v.toNat (x - a.toNat))
            else s.byteAt x)) ∧
    (s.inputs = .memRead32 a :: rest →
      (¬MappedAll s.cfg a.toNat 4 → step s = .fault (.agentAccess a.toNat)) ∧
      (MappedAll s.cfg a.toNat 4 →
        step s = .next
          { s with
            inputs := rest,
            hostReads :=
              BitVec.ofNat 32
                ((s.byteAt a.toNat).toNat * 2 ^ 24 + (s.byteAt (a.toNat + 1)).toNat * 2 ^ 16 +
                  (s.byteAt (a.toNat + 2)).toNat * 2 ^ 8 + (s.byteAt (a.toNat + 3)).toNat) :: s.hostReads }))
end

