-- ==== Sys2Proof/Laws/Bits.lean ====
section
/-! SUPPORT. What slicing, field replacement and byte order do, as facts about unsigned values. -/

namespace Sys2Proof.Machine

theorem slice_toNat (v : Word) (hi lo : Nat) (h : hi - lo < 32) :
    (slice v hi lo).toNat = v.toNat / 2 ^ lo % 2 ^ (hi - lo + 1) := by
  have hlt : v.toNat / 2 ^ lo % 2 ^ (hi - lo + 1) < 2 ^ 32 :=
    Nat.lt_of_lt_of_le (Nat.mod_lt _ (Nat.two_pow_pos _)) (Nat.pow_le_pow_right (by omega) (by omega))
  simp only [slice, BitVec.toNat_ofNat]
  exact Nat.mod_eq_of_lt hlt

/-- The whole word is its own slice. -/
theorem slice_whole (v : Word) : slice v 31 0 = v := by
  apply BitVec.eq_of_toNat_eq
  rw [slice_toNat v 31 0 (by omega)]
  have := v.isLt
  simp only [Nat.pow_zero, Nat.div_one]
  exact Nat.mod_eq_of_lt this

theorem wordOfBytes_toNat (b0 b1 b2 b3 : Byte) :
    (wordOfBytes b0 b1 b2 b3).toNat =
      b0.toNat * 2 ^ 24 + b1.toNat * 2 ^ 16 + b2.toNat * 2 ^ 8 + b3.toNat := by
  have h0 := b0.isLt
  have h1 := b1.isLt
  have h2 := b2.isLt
  have h3 := b3.isLt
  simp only [wordOfBytes, BitVec.toNat_ofNat]
  omega

/-- A word is read back from the bytes it was stored as (20_memory.md R62). -/
theorem wordOfBytes_of_wordBytes (v : Word) :
    wordOfBytes (BitVec.ofNat 8 (v.toNat / 2 ^ 24)) (BitVec.ofNat 8 (v.toNat / 2 ^ 16))
      (BitVec.ofNat 8 (v.toNat / 2 ^ 8)) (BitVec.ofNat 8 v.toNat) = v := by
  have h := v.isLt
  apply BitVec.eq_of_toNat_eq
  rw [wordOfBytes_toNat]
  simp only [BitVec.toNat_ofNat]
  omega

@[simp] theorem wordBytes_length (v : Word) : (wordBytes v).length = 4 := rfl

/-- What a field replacement holds, as a value (00_scope.md R11): f's low bits in place of the field's. -/
theorem replaceSlice_toNat (v f : Word) (hi lo : Nat) (hlo : lo ≤ hi) (hhi : hi < 32) :
    (replaceSlice v hi lo f).toNat =
      v.toNat / 2 ^ (hi + 1) * 2 ^ (hi + 1) + f.toNat % 2 ^ (hi - lo + 1) * 2 ^ lo + v.toNat % 2 ^ lo := by
  have hv := v.isLt
  simp only [replaceSlice, BitVec.toNat_ofNat]
  apply Nat.mod_eq_of_lt
  have hp : 2 ^ (hi - lo + 1) * 2 ^ lo = 2 ^ (hi + 1) := by
    rw [← Nat.pow_add]
    congr 1
    omega
  have hmid : f.toNat % 2 ^ (hi - lo + 1) * 2 ^ lo + v.toNat % 2 ^ lo < 2 ^ (hi + 1) := by
    have h1 : f.toNat % 2 ^ (hi - lo + 1) + 1 ≤ 2 ^ (hi - lo + 1) := Nat.mod_lt _ (Nat.two_pow_pos _)
    have h2 : v.toNat % 2 ^ lo < 2 ^ lo := Nat.mod_lt _ (Nat.two_pow_pos _)
    calc f.toNat % 2 ^ (hi - lo + 1) * 2 ^ lo + v.toNat % 2 ^ lo
        < f.toNat % 2 ^ (hi - lo + 1) * 2 ^ lo + 2 ^ lo := by omega
      _ = (f.toNat % 2 ^ (hi - lo + 1) + 1) * 2 ^ lo := by rw [Nat.add_mul, Nat.one_mul]
      _ ≤ 2 ^ (hi - lo + 1) * 2 ^ lo := Nat.mul_le_mul_right _ h1
      _ = 2 ^ (hi + 1) := hp
  have hq : v.toNat / 2 ^ (hi + 1) + 1 ≤ 2 ^ (32 - (hi + 1)) := by
    apply Nat.succ_le_of_lt
    apply Nat.div_lt_of_lt_mul
    rw [← Nat.pow_add]
    have : hi + 1 + (32 - (hi + 1)) = 32 := by omega
    rw [this]
    exact hv
  calc v.toNat / 2 ^ (hi + 1) * 2 ^ (hi + 1) + f.toNat % 2 ^ (hi - lo + 1) * 2 ^ lo + v.toNat % 2 ^ lo
      < v.toNat / 2 ^ (hi + 1) * 2 ^ (hi + 1) + 2 ^ (hi + 1) := by omega
    _ = (v.toNat / 2 ^ (hi + 1) + 1) * 2 ^ (hi + 1) := by rw [Nat.add_mul, Nat.one_mul]
    _ ≤ 2 ^ (32 - (hi + 1)) * 2 ^ (hi + 1) := Nat.mul_le_mul_right _ hq
    _ = 2 ^ 32 := by
      rw [← Nat.pow_add]
      congr 1
      omega

@[simp] theorem overlaps_empty (a : Nat) (r : Region) : overlaps r (a, 0) = false := by
  simp [overlaps]

end Sys2Proof.Machine
end

