-- ==== Sys2Proof/Laws/Memory.lean ====
section
/-! SUPPORT. The laws of the memory list: read after write, and that a write keeps the canonical form. -/

namespace Sys2Proof.Machine

/-- Every address a memory lists is above a. -/
def Memory.above (a : Nat) (m : Memory) : Prop := ∀ x ∈ m, a < x.1

theorem Memory.wf_cons {k : Nat} {v : Byte} {m : Memory} :
    Memory.wf ((k, v) :: m) = true ↔ k < 2 ^ 32 ∧ v ≠ unlistedByte ∧ Memory.above k m ∧ Memory.wf m = true := by
  simp [Memory.wf, Memory.above, and_assoc]

/-- An address below every listed one is not listed. -/
theorem Memory.read_of_above {a : Nat} : ∀ {m : Memory}, Memory.above a m → m.read a = unlistedByte
  | [], _ => rfl
  | (k, v) :: m, h => by
    have hk : a < k := h (k, v) (by simp)
    have hm : Memory.above a m := fun x hx => h x (by simp [hx])
    simp [Memory.read, Nat.ne_of_gt hk, Memory.read_of_above hm]

theorem Memory.above_mono {a b : Nat} {m : Memory} (hab : a ≤ b) (h : Memory.above b m) : Memory.above a m :=
  fun x hx => Nat.lt_of_le_of_lt hab (h x hx)

/-- A write leaves every other address alone. -/
theorem Memory.read_write_other {a a' : Nat} (b : Byte) (hne : a' ≠ a) :
    ∀ m : Memory, (m.write a b).read a' = m.read a'
  | [] => by
    by_cases hb : b = unlistedByte
    · simp [Memory.write, hb]
    · simp [Memory.write, hb, Memory.read, Ne.symm hne]
  | (k, v) :: m => by
    have ih := Memory.read_write_other b hne m
    by_cases h1 : a < k
    · by_cases hb : b = unlistedByte
      · simp [Memory.write, h1, hb]
      · simp [Memory.write, h1, hb, Memory.read, Ne.symm hne]
    · by_cases h2 : a = k
      · subst h2
        by_cases hb : b = unlistedByte
        · simp [Memory.write, hb, Memory.read, Ne.symm hne]
        · simp [Memory.write, hb, Memory.read, Ne.symm hne]
      · simp only [Memory.write, h1, h2, if_false, Memory.read, ih]

/-- A write gives its byte to its address. -/
theorem Memory.read_write_same (a : Nat) (b : Byte) :
    ∀ m : Memory, m.wf = true → (m.write a b).read a = b
  | [], _ => by
    by_cases hb : b = unlistedByte
    · simp [Memory.write, hb, Memory.read]
    · simp [Memory.write, hb, Memory.read]
  | (k, v) :: m, h => by
    obtain ⟨_, _, habove, hm⟩ := Memory.wf_cons.1 h
    have ih := Memory.read_write_same a b m hm
    by_cases h1 : a < k
    · by_cases hb : b = unlistedByte
      · have hr : Memory.read m a = unlistedByte := Memory.read_of_above (Memory.above_mono (Nat.le_of_lt h1) habove)
        simp [Memory.write, h1, hb, Memory.read, Nat.ne_of_gt h1, hr]
      · simp [Memory.write, h1, hb, Memory.read]
    · by_cases h2 : a = k
      · subst h2
        by_cases hb : b = unlistedByte
        · simp [Memory.write, hb, Memory.read_of_above habove]
        · simp [Memory.write, hb, Memory.read]
      · have hk : ¬ k = a := fun e => h2 e.symm
        simp only [Memory.write, h1, h2, if_false, Memory.read, hk, ih]

/-- What a write lists: its own address, with a byte that is listed, or what was listed before. -/
theorem Memory.mem_write {a : Nat} {b : Byte} {x : Host.Cell} :
    ∀ {m : Memory}, x ∈ m.write a b → (x = (a, b) ∧ b ≠ unlistedByte) ∨ x ∈ m
  | [], h => by
    by_cases hb : b = unlistedByte
    · simp [Memory.write, hb] at h
    · simp only [Memory.write, hb, if_false, List.mem_singleton] at h
      exact Or.inl ⟨h, hb⟩
  | (k, v) :: m, h => by
    by_cases h1 : a < k
    · by_cases hb : b = unlistedByte
      · simp only [Memory.write, h1, hb, if_true] at h
        exact Or.inr h
      · simp only [Memory.write, h1, hb, if_true, if_false, List.mem_cons] at h
        rcases h with h | h
        · exact Or.inl ⟨h, hb⟩
        · exact Or.inr (by simpa using h)
    · by_cases h2 : a = k
      · subst h2
        by_cases hb : b = unlistedByte
        · simp only [Memory.write, Nat.lt_irrefl, hb, if_true, if_false] at h
          exact Or.inr (List.mem_cons_of_mem _ h)
        · simp only [Memory.write, Nat.lt_irrefl, hb, if_true, if_false, List.mem_cons] at h
          rcases h with h | h
          · exact Or.inl ⟨h, hb⟩
          · exact Or.inr (List.mem_cons_of_mem _ h)
      · simp only [Memory.write, h1, h2, if_false, List.mem_cons] at h
        rcases h with h | h
        · exact Or.inr (by simp [h])
        · rcases Memory.mem_write h with h | h
          · exact Or.inl h
          · exact Or.inr (by simp [h])

/-- A write below 2^32 keeps the canonical form. -/
theorem Memory.write_wf {a : Nat} (b : Byte) (ha : a < 2 ^ 32) :
    ∀ {m : Memory}, m.wf = true → (m.write a b).wf = true
  | [], _ => by
    by_cases hb : b = unlistedByte
    · simp [Memory.write, hb, Memory.wf]
    · simp only [Memory.write, hb, if_false]
      exact Memory.wf_cons.2 ⟨ha, hb, by simp [Memory.above], rfl⟩
  | (k, v) :: m, h => by
    obtain ⟨hk, hv, habove, hm⟩ := Memory.wf_cons.1 h
    by_cases h1 : a < k
    · by_cases hb : b = unlistedByte
      · simpa [Memory.write, h1, hb] using h
      · simp only [Memory.write, h1, hb, if_true, if_false]
        refine Memory.wf_cons.2 ⟨ha, hb, ?_, h⟩
        intro x hx
        rcases List.mem_cons.1 hx with hx | hx
        · simpa [hx] using h1
        · exact Nat.lt_trans h1 (habove x hx)
    · by_cases h2 : a = k
      · subst h2
        by_cases hb : b = unlistedByte
        · simpa [Memory.write, hb] using hm
        · simp only [Memory.write, hb, if_false, Nat.lt_irrefl]
          exact Memory.wf_cons.2 ⟨ha, hb, habove, hm⟩
      · simp only [Memory.write, h1, h2, if_false]
        refine Memory.wf_cons.2 ⟨hk, hv, ?_, Memory.write_wf b ha hm⟩
        intro x hx
        rcases Memory.mem_write hx with ⟨hx, _⟩ | hx
        · simp only [hx]
          omega
        · exact habove x hx

end Sys2Proof.Machine
end

