-- ==== Sys2Proof/Laws/State.lean ====
section
/-! SUPPORT. One lemma per field per update of State, true by rfl, so that no proof unfolds a record update. -/

namespace Sys2Proof.Machine

section

variable (s : State) (a : Nat) (bs : List Byte)

@[simp] theorem State.writeBytes_cfg : (s.writeBytes a bs).cfg = s.cfg := rfl
@[simp] theorem State.writeBytes_cmd : (s.writeBytes a bs).cmd = s.cmd := rfl
@[simp] theorem State.writeBytes_err : (s.writeBytes a bs).err = s.err := rfl
@[simp] theorem State.writeBytes_anyErr : (s.writeBytes a bs).anyErr = s.anyErr := rfl
@[simp] theorem State.writeBytes_arg0 : (s.writeBytes a bs).arg0 = s.arg0 := rfl
@[simp] theorem State.writeBytes_arg1 : (s.writeBytes a bs).arg1 = s.arg1 := rfl
@[simp] theorem State.writeBytes_arg2 : (s.writeBytes a bs).arg2 = s.arg2 := rfl
@[simp] theorem State.writeBytes_arg3 : (s.writeBytes a bs).arg3 = s.arg3 := rfl
@[simp] theorem State.writeBytes_res0 : (s.writeBytes a bs).res0 = s.res0 := rfl
@[simp] theorem State.writeBytes_res1 : (s.writeBytes a bs).res1 = s.res1 := rfl
@[simp] theorem State.writeBytes_res2 : (s.writeBytes a bs).res2 = s.res2 := rfl
@[simp] theorem State.writeBytes_res3 : (s.writeBytes a bs).res3 = s.res3 := rfl
@[simp] theorem State.writeBytes_ctxs : (s.writeBytes a bs).ctxs = s.ctxs := rfl
@[simp] theorem State.writeBytes_hs : (s.writeBytes a bs).hs = s.hs := rfl
@[simp] theorem State.writeBytes_sealed : (s.writeBytes a bs).sealed = s.sealed := rfl
@[simp] theorem State.writeBytes_mem : (s.writeBytes a bs).mem = storeBytes s.cfg s.mem a bs := rfl
@[simp] theorem State.writeBytes_live : (s.writeBytes a bs).live = s.live := rfl
@[simp] theorem State.writeBytes_allocAnswers : (s.writeBytes a bs).allocAnswers = s.allocAnswers := rfl
@[simp] theorem State.writeBytes_inputs : (s.writeBytes a bs).inputs = s.inputs := rfl
@[simp] theorem State.writeBytes_draws : (s.writeBytes a bs).draws = s.draws := rfl
@[simp] theorem State.writeBytes_hostReads : (s.writeBytes a bs).hostReads = s.hostReads := rfl
@[simp] theorem State.writeBytes_allocTrace : (s.writeBytes a bs).allocTrace = s.allocTrace := rfl

end

section

variable (s : State) (a : Nat) (v : Word)

@[simp] theorem State.writeWord_cfg : (s.writeWord a v).cfg = s.cfg := rfl
@[simp] theorem State.writeWord_cmd : (s.writeWord a v).cmd = s.cmd := rfl
@[simp] theorem State.writeWord_err : (s.writeWord a v).err = s.err := rfl
@[simp] theorem State.writeWord_anyErr : (s.writeWord a v).anyErr = s.anyErr := rfl
@[simp] theorem State.writeWord_arg0 : (s.writeWord a v).arg0 = s.arg0 := rfl
@[simp] theorem State.writeWord_arg1 : (s.writeWord a v).arg1 = s.arg1 := rfl
@[simp] theorem State.writeWord_arg2 : (s.writeWord a v).arg2 = s.arg2 := rfl
@[simp] theorem State.writeWord_arg3 : (s.writeWord a v).arg3 = s.arg3 := rfl
@[simp] theorem State.writeWord_res0 : (s.writeWord a v).res0 = s.res0 := rfl
@[simp] theorem State.writeWord_res1 : (s.writeWord a v).res1 = s.res1 := rfl
@[simp] theorem State.writeWord_res2 : (s.writeWord a v).res2 = s.res2 := rfl
@[simp] theorem State.writeWord_res3 : (s.writeWord a v).res3 = s.res3 := rfl
@[simp] theorem State.writeWord_ctxs : (s.writeWord a v).ctxs = s.ctxs := rfl
@[simp] theorem State.writeWord_hs : (s.writeWord a v).hs = s.hs := rfl
@[simp] theorem State.writeWord_sealed : (s.writeWord a v).sealed = s.sealed := rfl
@[simp] theorem State.writeWord_mem : (s.writeWord a v).mem = storeBytes s.cfg s.mem a (wordBytes v) := rfl
@[simp] theorem State.writeWord_live : (s.writeWord a v).live = s.live := rfl
@[simp] theorem State.writeWord_allocAnswers : (s.writeWord a v).allocAnswers = s.allocAnswers := rfl
@[simp] theorem State.writeWord_inputs : (s.writeWord a v).inputs = s.inputs := rfl
@[simp] theorem State.writeWord_draws : (s.writeWord a v).draws = s.draws := rfl
@[simp] theorem State.writeWord_hostReads : (s.writeWord a v).hostReads = s.hostReads := rfl
@[simp] theorem State.writeWord_allocTrace : (s.writeWord a v).allocTrace = s.allocTrace := rfl

end

section

variable (s : State) (c w : Nat) (v : Word)

@[simp] theorem State.setHdr_cfg : (s.setHdr c w v).cfg = s.cfg := rfl
@[simp] theorem State.setHdr_cmd : (s.setHdr c w v).cmd = s.cmd := rfl
@[simp] theorem State.setHdr_err : (s.setHdr c w v).err = s.err := rfl
@[simp] theorem State.setHdr_anyErr : (s.setHdr c w v).anyErr = s.anyErr := rfl
@[simp] theorem State.setHdr_arg0 : (s.setHdr c w v).arg0 = s.arg0 := rfl
@[simp] theorem State.setHdr_arg1 : (s.setHdr c w v).arg1 = s.arg1 := rfl
@[simp] theorem State.setHdr_arg2 : (s.setHdr c w v).arg2 = s.arg2 := rfl
@[simp] theorem State.setHdr_arg3 : (s.setHdr c w v).arg3 = s.arg3 := rfl
@[simp] theorem State.setHdr_res0 : (s.setHdr c w v).res0 = s.res0 := rfl
@[simp] theorem State.setHdr_res1 : (s.setHdr c w v).res1 = s.res1 := rfl
@[simp] theorem State.setHdr_res2 : (s.setHdr c w v).res2 = s.res2 := rfl
@[simp] theorem State.setHdr_res3 : (s.setHdr c w v).res3 = s.res3 := rfl
@[simp] theorem State.setHdr_ctxs : (s.setHdr c w v).ctxs = s.ctxs := rfl
@[simp] theorem State.setHdr_hs : (s.setHdr c w v).hs = s.hs := rfl
@[simp] theorem State.setHdr_sealed : (s.setHdr c w v).sealed = s.sealed := rfl
@[simp] theorem State.setHdr_mem : (s.setHdr c w v).mem = storeBytes s.cfg s.mem (s.hdrAddr c w) (wordBytes v) := rfl
@[simp] theorem State.setHdr_live : (s.setHdr c w v).live = s.live := rfl
@[simp] theorem State.setHdr_allocAnswers : (s.setHdr c w v).allocAnswers = s.allocAnswers := rfl
@[simp] theorem State.setHdr_inputs : (s.setHdr c w v).inputs = s.inputs := rfl
@[simp] theorem State.setHdr_draws : (s.setHdr c w v).draws = s.draws := rfl
@[simp] theorem State.setHdr_hostReads : (s.setHdr c w v).hostReads = s.hostReads := rfl
@[simp] theorem State.setHdr_allocTrace : (s.setHdr c w v).allocTrace = s.allocTrace := rfl

end

section

variable (s : State) (c : Nat) (x : Ctx)

@[simp] theorem State.setCtx_cfg : (s.setCtx c x).cfg = s.cfg := rfl
@[simp] theorem State.setCtx_cmd : (s.setCtx c x).cmd = s.cmd := rfl
@[simp] theorem State.setCtx_err : (s.setCtx c x).err = s.err := rfl
@[simp] theorem State.setCtx_anyErr : (s.setCtx c x).anyErr = s.anyErr := rfl
@[simp] theorem State.setCtx_arg0 : (s.setCtx c x).arg0 = s.arg0 := rfl
@[simp] theorem State.setCtx_arg1 : (s.setCtx c x).arg1 = s.arg1 := rfl
@[simp] theorem State.setCtx_arg2 : (s.setCtx c x).arg2 = s.arg2 := rfl
@[simp] theorem State.setCtx_arg3 : (s.setCtx c x).arg3 = s.arg3 := rfl
@[simp] theorem State.setCtx_res0 : (s.setCtx c x).res0 = s.res0 := rfl
@[simp] theorem State.setCtx_res1 : (s.setCtx c x).res1 = s.res1 := rfl
@[simp] theorem State.setCtx_res2 : (s.setCtx c x).res2 = s.res2 := rfl
@[simp] theorem State.setCtx_res3 : (s.setCtx c x).res3 = s.res3 := rfl
@[simp] theorem State.setCtx_ctxs : (s.setCtx c x).ctxs = s.ctxs.set c x := rfl
@[simp] theorem State.setCtx_hs : (s.setCtx c x).hs = s.hs := rfl
@[simp] theorem State.setCtx_sealed : (s.setCtx c x).sealed = s.sealed := rfl
@[simp] theorem State.setCtx_mem : (s.setCtx c x).mem = s.mem := rfl
@[simp] theorem State.setCtx_live : (s.setCtx c x).live = s.live := rfl
@[simp] theorem State.setCtx_allocAnswers : (s.setCtx c x).allocAnswers = s.allocAnswers := rfl
@[simp] theorem State.setCtx_inputs : (s.setCtx c x).inputs = s.inputs := rfl
@[simp] theorem State.setCtx_draws : (s.setCtx c x).draws = s.draws := rfl
@[simp] theorem State.setCtx_hostReads : (s.setCtx c x).hostReads = s.hostReads := rfl
@[simp] theorem State.setCtx_allocTrace : (s.setCtx c x).allocTrace = s.allocTrace := rfl

end

section

variable (s : State) (c : Nat) (a n : Word)

@[simp] theorem State.freeAlloc_cfg : (s.freeAlloc c a n).cfg = s.cfg := rfl
@[simp] theorem State.freeAlloc_cmd : (s.freeAlloc c a n).cmd = s.cmd := rfl
@[simp] theorem State.freeAlloc_err : (s.freeAlloc c a n).err = s.err := rfl
@[simp] theorem State.freeAlloc_anyErr : (s.freeAlloc c a n).anyErr = s.anyErr := rfl
@[simp] theorem State.freeAlloc_arg0 : (s.freeAlloc c a n).arg0 = s.arg0 := rfl
@[simp] theorem State.freeAlloc_arg1 : (s.freeAlloc c a n).arg1 = s.arg1 := rfl
@[simp] theorem State.freeAlloc_arg2 : (s.freeAlloc c a n).arg2 = s.arg2 := rfl
@[simp] theorem State.freeAlloc_arg3 : (s.freeAlloc c a n).arg3 = s.arg3 := rfl
@[simp] theorem State.freeAlloc_res0 : (s.freeAlloc c a n).res0 = s.res0 := rfl
@[simp] theorem State.freeAlloc_res1 : (s.freeAlloc c a n).res1 = s.res1 := rfl
@[simp] theorem State.freeAlloc_res2 : (s.freeAlloc c a n).res2 = s.res2 := rfl
@[simp] theorem State.freeAlloc_res3 : (s.freeAlloc c a n).res3 = s.res3 := rfl
@[simp] theorem State.freeAlloc_ctxs : (s.freeAlloc c a n).ctxs = s.ctxs := rfl
@[simp] theorem State.freeAlloc_hs : (s.freeAlloc c a n).hs = s.hs := rfl
@[simp] theorem State.freeAlloc_sealed : (s.freeAlloc c a n).sealed = s.sealed := rfl
@[simp] theorem State.freeAlloc_mem : (s.freeAlloc c a n).mem = s.mem := rfl
@[simp] theorem State.freeAlloc_live : (s.freeAlloc c a n).live = s.live.erase ⟨c, a, n⟩ := rfl
@[simp] theorem State.freeAlloc_allocAnswers : (s.freeAlloc c a n).allocAnswers = s.allocAnswers := rfl
@[simp] theorem State.freeAlloc_inputs : (s.freeAlloc c a n).inputs = s.inputs := rfl
@[simp] theorem State.freeAlloc_draws : (s.freeAlloc c a n).draws = s.draws := rfl
@[simp] theorem State.freeAlloc_hostReads : (s.freeAlloc c a n).hostReads = s.hostReads := rfl
@[simp] theorem State.freeAlloc_allocTrace : (s.freeAlloc c a n).allocTrace = .free a :: s.allocTrace := rfl

end

section

variable (s : State) (v : Word)

@[simp] theorem State.writeStatus_cfg : (s.writeStatus v).cfg = s.cfg := rfl
@[simp] theorem State.writeStatus_cmd : (s.writeStatus v).cmd = s.cmd := rfl
@[simp] theorem State.writeStatus_err : (s.writeStatus v).err = s.err := rfl
@[simp] theorem State.writeStatus_anyErr : (s.writeStatus v).anyErr = (s.anyErr && !(slice v 9 9 == 1)) := rfl
@[simp] theorem State.writeStatus_arg0 : (s.writeStatus v).arg0 = s.arg0 := rfl
@[simp] theorem State.writeStatus_arg1 : (s.writeStatus v).arg1 = s.arg1 := rfl
@[simp] theorem State.writeStatus_arg2 : (s.writeStatus v).arg2 = s.arg2 := rfl
@[simp] theorem State.writeStatus_arg3 : (s.writeStatus v).arg3 = s.arg3 := rfl
@[simp] theorem State.writeStatus_res0 : (s.writeStatus v).res0 = s.res0 := rfl
@[simp] theorem State.writeStatus_res1 : (s.writeStatus v).res1 = s.res1 := rfl
@[simp] theorem State.writeStatus_res2 : (s.writeStatus v).res2 = s.res2 := rfl
@[simp] theorem State.writeStatus_res3 : (s.writeStatus v).res3 = s.res3 := rfl
@[simp] theorem State.writeStatus_ctxs : (s.writeStatus v).ctxs = s.ctxs := rfl
@[simp] theorem State.writeStatus_hs : (s.writeStatus v).hs = s.hs := rfl
@[simp] theorem State.writeStatus_sealed : (s.writeStatus v).sealed = s.sealed := rfl
@[simp] theorem State.writeStatus_mem : (s.writeStatus v).mem = s.mem := rfl
@[simp] theorem State.writeStatus_live : (s.writeStatus v).live = s.live := rfl
@[simp] theorem State.writeStatus_allocAnswers : (s.writeStatus v).allocAnswers = s.allocAnswers := rfl
@[simp] theorem State.writeStatus_inputs : (s.writeStatus v).inputs = s.inputs := rfl
@[simp] theorem State.writeStatus_draws : (s.writeStatus v).draws = s.draws := rfl
@[simp] theorem State.writeStatus_hostReads : (s.writeStatus v).hostReads = s.hostReads := rfl
@[simp] theorem State.writeStatus_allocTrace : (s.writeStatus v).allocTrace = s.allocTrace := rfl

end

section

variable (s : State) (v : Word)

@[simp] theorem State.recordRead_cfg : (s.recordRead v).cfg = s.cfg := rfl
@[simp] theorem State.recordRead_cmd : (s.recordRead v).cmd = s.cmd := rfl
@[simp] theorem State.recordRead_err : (s.recordRead v).err = s.err := rfl
@[simp] theorem State.recordRead_anyErr : (s.recordRead v).anyErr = s.anyErr := rfl
@[simp] theorem State.recordRead_arg0 : (s.recordRead v).arg0 = s.arg0 := rfl
@[simp] theorem State.recordRead_arg1 : (s.recordRead v).arg1 = s.arg1 := rfl
@[simp] theorem State.recordRead_arg2 : (s.recordRead v).arg2 = s.arg2 := rfl
@[simp] theorem State.recordRead_arg3 : (s.recordRead v).arg3 = s.arg3 := rfl
@[simp] theorem State.recordRead_res0 : (s.recordRead v).res0 = s.res0 := rfl
@[simp] theorem State.recordRead_res1 : (s.recordRead v).res1 = s.res1 := rfl
@[simp] theorem State.recordRead_res2 : (s.recordRead v).res2 = s.res2 := rfl
@[simp] theorem State.recordRead_res3 : (s.recordRead v).res3 = s.res3 := rfl
@[simp] theorem State.recordRead_ctxs : (s.recordRead v).ctxs = s.ctxs := rfl
@[simp] theorem State.recordRead_hs : (s.recordRead v).hs = s.hs := rfl
@[simp] theorem State.recordRead_sealed : (s.recordRead v).sealed = s.sealed := rfl
@[simp] theorem State.recordRead_mem : (s.recordRead v).mem = s.mem := rfl
@[simp] theorem State.recordRead_live : (s.recordRead v).live = s.live := rfl
@[simp] theorem State.recordRead_allocAnswers : (s.recordRead v).allocAnswers = s.allocAnswers := rfl
@[simp] theorem State.recordRead_inputs : (s.recordRead v).inputs = s.inputs := rfl
@[simp] theorem State.recordRead_draws : (s.recordRead v).draws = s.draws := rfl
@[simp] theorem State.recordRead_hostReads : (s.recordRead v).hostReads = v :: s.hostReads := rfl
@[simp] theorem State.recordRead_allocTrace : (s.recordRead v).allocTrace = s.allocTrace := rfl

end

section

variable (s : State)

@[simp] theorem State.reclaim_cfg : (s.reclaim).cfg = s.cfg := rfl
@[simp] theorem State.reclaim_cmd : (s.reclaim).cmd = s.cmd := rfl
@[simp] theorem State.reclaim_err : (s.reclaim).err = s.err := rfl
@[simp] theorem State.reclaim_anyErr : (s.reclaim).anyErr = s.anyErr := rfl
@[simp] theorem State.reclaim_arg0 : (s.reclaim).arg0 = s.arg0 := rfl
@[simp] theorem State.reclaim_arg1 : (s.reclaim).arg1 = s.arg1 := rfl
@[simp] theorem State.reclaim_arg2 : (s.reclaim).arg2 = s.arg2 := rfl
@[simp] theorem State.reclaim_arg3 : (s.reclaim).arg3 = s.arg3 := rfl
@[simp] theorem State.reclaim_res0 : (s.reclaim).res0 = s.res0 := rfl
@[simp] theorem State.reclaim_res1 : (s.reclaim).res1 = s.res1 := rfl
@[simp] theorem State.reclaim_res2 : (s.reclaim).res2 = s.res2 := rfl
@[simp] theorem State.reclaim_res3 : (s.reclaim).res3 = s.res3 := rfl
@[simp] theorem State.reclaim_ctxs : (s.reclaim).ctxs = s.ctxs := rfl
@[simp] theorem State.reclaim_hs : (s.reclaim).hs = s.hs := rfl
@[simp] theorem State.reclaim_sealed : (s.reclaim).sealed = s.sealed := rfl
@[simp] theorem State.reclaim_mem : (s.reclaim).mem = s.mem := rfl
@[simp] theorem State.reclaim_live : (s.reclaim).live = s.live.filter fun l => holds s l := rfl
@[simp] theorem State.reclaim_allocAnswers : (s.reclaim).allocAnswers = s.allocAnswers := rfl
@[simp] theorem State.reclaim_inputs : (s.reclaim).inputs = s.inputs := rfl
@[simp] theorem State.reclaim_draws : (s.reclaim).draws = s.draws := rfl
@[simp] theorem State.reclaim_hostReads : (s.reclaim).hostReads = s.hostReads := rfl
@[simp] theorem State.reclaim_allocTrace : (s.reclaim).allocTrace = s.allocTrace := rfl

end

section

variable (s : State) (i : Fin 4) (v : Word)

@[simp] theorem State.setArg_cfg : (s.setArg i v).cfg = s.cfg := by
  match i with
  | 0 | 1 | 2 | 3 => rfl
@[simp] theorem State.setArg_cmd : (s.setArg i v).cmd = s.cmd := by
  match i with
  | 0 | 1 | 2 | 3 => rfl
@[simp] theorem State.setArg_err : (s.setArg i v).err = s.err := by
  match i with
  | 0 | 1 | 2 | 3 => rfl
@[simp] theorem State.setArg_anyErr : (s.setArg i v).anyErr = s.anyErr := by
  match i with
  | 0 | 1 | 2 | 3 => rfl
@[simp] theorem State.setArg_res0 : (s.setArg i v).res0 = s.res0 := by
  match i with
  | 0 | 1 | 2 | 3 => rfl
@[simp] theorem State.setArg_res1 : (s.setArg i v).res1 = s.res1 := by
  match i with
  | 0 | 1 | 2 | 3 => rfl
@[simp] theorem State.setArg_res2 : (s.setArg i v).res2 = s.res2 := by
  match i with
  | 0 | 1 | 2 | 3 => rfl
@[simp] theorem State.setArg_res3 : (s.setArg i v).res3 = s.res3 := by
  match i with
  | 0 | 1 | 2 | 3 => rfl
@[simp] theorem State.setArg_ctxs : (s.setArg i v).ctxs = s.ctxs := by
  match i with
  | 0 | 1 | 2 | 3 => rfl
@[simp] theorem State.setArg_hs : (s.setArg i v).hs = s.hs := by
  match i with
  | 0 | 1 | 2 | 3 => rfl
@[simp] theorem State.setArg_sealed : (s.setArg i v).sealed = s.sealed := by
  match i with
  | 0 | 1 | 2 | 3 => rfl
@[simp] theorem State.setArg_mem : (s.setArg i v).mem = s.mem := by
  match i with
  | 0 | 1 | 2 | 3 => rfl
@[simp] theorem State.setArg_live : (s.setArg i v).live = s.live := by
  match i with
  | 0 | 1 | 2 | 3 => rfl
@[simp] theorem State.setArg_allocAnswers : (s.setArg i v).allocAnswers = s.allocAnswers := by
  match i with
  | 0 | 1 | 2 | 3 => rfl
@[simp] theorem State.setArg_inputs : (s.setArg i v).inputs = s.inputs := by
  match i with
  | 0 | 1 | 2 | 3 => rfl
@[simp] theorem State.setArg_draws : (s.setArg i v).draws = s.draws := by
  match i with
  | 0 | 1 | 2 | 3 => rfl
@[simp] theorem State.setArg_hostReads : (s.setArg i v).hostReads = s.hostReads := by
  match i with
  | 0 | 1 | 2 | 3 => rfl
@[simp] theorem State.setArg_allocTrace : (s.setArg i v).allocTrace = s.allocTrace := by
  match i with
  | 0 | 1 | 2 | 3 => rfl

end

end Sys2Proof.Machine
end

