-- ==== Sys2Proof/Laws/Ops.lean ====
section
/-! SUPPORT. What each shared operation can do, once: storing and reading bytes and words, the contexts, the handshake
record, how a command ends, the allocator's answer. -/

namespace Sys2Proof.Machine

/-! Bytes of the buffer memory -/

/-- The byte at an address, by the memory and the parameters alone. -/
theorem byteAt_def (s : State) (x : Nat) :
    s.byteAt x = if reservedByte s.cfg x then 0 else Memory.read s.mem x := rfl

/-- Two states with one memory and the same parameters have the same bytes. -/
theorem byteAt_congr {s t : State} (hc : t.cfg = s.cfg) (hm : t.mem = s.mem) (x : Nat) : t.byteAt x = s.byteAt x := by
  simp [byteAt_def, hc, hm]

theorem read_storeByte_other (cfg : Config) (m : Memory) {a x : Nat} (b : Byte) (h : x ≠ a) :
    Memory.read (storeByte cfg m a b) x = Memory.read m x := by
  unfold storeByte
  split
  · rfl
  · exact Memory.read_write_other b h m

theorem read_storeByte_same (cfg : Config) (m : Memory) {a : Nat} (b : Byte) (hm : Memory.wf m = true)
    (hr : reservedByte cfg a = false) : Memory.read (storeByte cfg m a b) a = b := by
  simp [storeByte, hr, Memory.read_write_same a b m hm]

theorem storeByte_wf (cfg : Config) {m : Memory} {a : Nat} (b : Byte) (ha : a < 2 ^ 32) (hm : Memory.wf m = true) :
    Memory.wf (storeByte cfg m a b) = true := by
  unfold storeByte
  split
  · exact hm
  · exact Memory.write_wf b ha hm

theorem storeBytes_wf (cfg : Config) : ∀ (bs : List Byte) {m : Memory} {a : Nat},
    a + bs.length ≤ 2 ^ 32 → Memory.wf m = true → Memory.wf (storeBytes cfg m a bs) = true
  | [], _, _, _, hm => hm
  | b :: bs, m, a, ha, hm => by
    simp only [List.length_cons] at ha
    exact storeBytes_wf cfg bs (by omega) (storeByte_wf cfg b (by omega) hm)

/-- Storing lists no reserved byte. -/
theorem storeByte_noReserved (cfg : Config) {m : Memory} {a : Nat} (b : Byte)
    (hm : ∀ x ∈ m, reservedByte cfg x.1 = false) : ∀ x ∈ storeByte cfg m a b, reservedByte cfg x.1 = false := by
  unfold storeByte
  split
  · exact hm
  · rename_i hr
    intro x hx
    rcases Memory.mem_write hx with ⟨hx, _⟩ | hx
    · simpa [hx] using hr
    · exact hm x hx

theorem storeBytes_noReserved (cfg : Config) : ∀ (bs : List Byte) {m : Memory} {a : Nat},
    (∀ x ∈ m, reservedByte cfg x.1 = false) → ∀ x ∈ storeBytes cfg m a bs, reservedByte cfg x.1 = false
  | [], _, _, hm => hm
  | b :: bs, _, _, hm => storeBytes_noReserved cfg bs (storeByte_noReserved cfg b hm)

theorem read_storeBytes_other (cfg : Config) : ∀ (bs : List Byte) (m : Memory) (a x : Nat),
    (x < a ∨ a + bs.length ≤ x) → Memory.read (storeBytes cfg m a bs) x = Memory.read m x
  | [], _, _, _, _ => rfl
  | b :: bs, m, a, x, h => by
    simp only [List.length_cons] at h
    simp only [storeBytes]
    rw [read_storeBytes_other cfg bs _ (a + 1) x (by omega), read_storeByte_other cfg m b (by omega)]

theorem read_storeBytes_same (cfg : Config) : ∀ (bs : List Byte) (m : Memory) (a i : Nat) (hi : i < bs.length),
    a + bs.length ≤ 2 ^ 32 → Memory.wf m = true → reservedByte cfg (a + i) = false →
    Memory.read (storeBytes cfg m a bs) (a + i) = bs[i]
  | b :: bs, m, a, 0, _, ha, hm, hr => by
    simp only [storeBytes, List.getElem_cons_zero, Nat.add_zero] at *
    rw [read_storeBytes_other cfg bs _ (a + 1) a (by omega), read_storeByte_same cfg m b hm hr]
  | b :: bs, m, a, i + 1, hi, ha, hm, hr => by
    simp only [List.length_cons] at hi ha
    simp only [storeBytes, List.getElem_cons_succ]
    have e : a + (i + 1) = a + 1 + i := by omega
    rw [e] at hr ⊢
    exact read_storeBytes_same cfg bs _ (a + 1) i (by omega) (by omega) (storeByte_wf cfg b (by omega) hm) hr

/-- A write leaves every byte outside its region alone (00_scope.md R13). -/
theorem byteAt_writeBytes_other (s : State) (a : Nat) (bs : List Byte) {x : Nat}
    (h : x < a ∨ a + bs.length ≤ x) : (s.writeBytes a bs).byteAt x = s.byteAt x := by
  simp [byteAt_def, read_storeBytes_other s.cfg bs s.mem a x h]

/-- A write gives each byte of its region its value, but for the reserved window bytes (20_memory.md R67). -/
theorem byteAt_writeBytes_same (s : State) (a : Nat) (bs : List Byte) (i : Nat) (hi : i < bs.length)
    (ha : a + bs.length ≤ 2 ^ 32) (hm : Memory.wf s.mem = true) (hr : reservedByte s.cfg (a + i) = false) :
    (s.writeBytes a bs).byteAt (a + i) = bs[i] := by
  simp [byteAt_def, hr, read_storeBytes_same s.cfg bs s.mem a i hi ha hm hr]

/-- A reserved window byte reads as 0 (10_state.md R33). -/
theorem byteAt_reserved (s : State) {x : Nat} (h : reservedByte s.cfg x = true) : s.byteAt x = 0 := by
  simp [byteAt_def, h]

@[simp] theorem readBytes_length (s : State) : ∀ (n a : Nat), (s.readBytes a n).length = n
  | 0, _ => rfl
  | n + 1, a => by simp [State.readBytes, readBytes_length s n (a + 1)]

theorem readBytes_getElem (s : State) : ∀ (n a i : Nat) (hi : i < (s.readBytes a n).length),
    (s.readBytes a n)[i] = s.byteAt (a + i)
  | 0, _, _, hi => by simp at hi
  | n + 1, a, 0, _ => by simp [State.readBytes]
  | n + 1, a, i + 1, hi => by
    simp only [State.readBytes, List.getElem_cons_succ]
    rw [readBytes_getElem s n (a + 1) i]
    congr 1
    omega

/-- All that a write does to the bytes that agents read (00_scope.md R13, 20_memory.md R67). -/
theorem byteAt_writeBytes (s : State) (a : Nat) (bs : List Byte) (ha : a + bs.length ≤ 2 ^ 32)
    (hm : Memory.wf s.mem = true) (x : Nat) :
    (s.writeBytes a bs).byteAt x =
      if a ≤ x ∧ x < a + bs.length then storedByte s.cfg x (bs.getD (x - a) 0) else s.byteAt x := by
  split
  · rename_i h
    rcases Bool.eq_false_or_eq_true (reservedByte s.cfg x) with hr | hr
    · rw [byteAt_reserved _ (by simpa using hr)]
      simp [storedByte, hr]
    · have e : x = a + (x - a) := by omega
      have hi : x - a < bs.length := by omega
      have key := byteAt_writeBytes_same s a bs (x - a) hi ha hm (by rw [← e]; exact hr)
      rw [← e] at key
      rw [key]
      simp [storedByte, hr, hi]
  · exact byteAt_writeBytes_other s a bs (by omega)

/-- What is read depends on the bytes alone. -/
theorem readBytes_congr {s t : State} (h : ∀ x, t.byteAt x = s.byteAt x) :
    ∀ n a, t.readBytes a n = s.readBytes a n
  | 0, _ => rfl
  | n + 1, a => by simp only [State.readBytes, h, readBytes_congr h n]

/-! Words -/

/-- All that storing a word does to the bytes that agents read (20_memory.md R62, R67). -/
theorem byteAt_writeWord (s : State) (a : Nat) (v : Word) (ha : a + 4 ≤ 2 ^ 32) (hm : Memory.wf s.mem = true)
    (x : Nat) :
    (s.writeWord a v).byteAt x =
      if a ≤ x ∧ x < a + 4 then storedByte s.cfg x (beByte v.toNat (x - a)) else s.byteAt x := by
  rw [State.writeWord, byteAt_writeBytes s a _ (by simpa using ha) hm]
  show (if a ≤ x ∧ x < a + 4 then storedByte s.cfg x ((wordBytes v).getD (x - a) 0) else s.byteAt x) = _
  by_cases h : a ≤ x ∧ x < a + 4
  · rw [if_pos h, if_pos h]
    have k : x - a = 0 ∨ x - a = 1 ∨ x - a = 2 ∨ x - a = 3 := by omega
    rcases k with k | k | k | k <;> rw [k] <;> simp [wordBytes, beByte]
  · rw [if_neg h, if_neg h]

/-- The words read depend on the bytes alone. -/
theorem wordsAt_congr {s t : State} (h : ∀ x, t.byteAt x = s.byteAt x) :
    ∀ n a, t.wordsAt a n = s.wordsAt a n
  | 0, _ => rfl
  | n + 1, a => by simp only [State.wordsAt, State.wordAt, h, wordsAt_congr h n]

@[simp] theorem wordsAt_length (s : State) : ∀ (n a : Nat), (s.wordsAt a n).length = n
  | 0, _ => rfl
  | n + 1, a => by simp [State.wordsAt, wordsAt_length s n (a + 4)]

theorem wordsAt_getD (s : State) : ∀ (n a k : Nat), k < n → (s.wordsAt a n).getD k 0 = s.wordAt (a + 4 * k)
  | n + 1, a, 0, _ => by simp [State.wordsAt]
  | n + 1, a, k + 1, h => by
    simp only [State.wordsAt, List.getD_cons_succ, wordsAt_getD s n (a + 4) k (by omega)]
    congr 1
    omega

/-- A word whose four bytes are stored is read back, if none of them is a reserved window byte. -/
theorem wordAt_writeWord_same (s : State) (a : Nat) (v : Word) (ha : a + 4 ≤ 2 ^ 32) (hm : Memory.wf s.mem = true)
    (hr : ∀ i < 4, reservedByte s.cfg (a + i) = false) : (s.writeWord a v).wordAt a = v := by
  have key : ∀ i (hi : i < (wordBytes v).length), (s.writeWord a v).byteAt (a + i) = (wordBytes v)[i] :=
    fun i hi => byteAt_writeBytes_same s a (wordBytes v) i hi (by simpa using ha) hm (hr i (by simpa using hi))
  have k0 := key 0 (by simp)
  have k1 := key 1 (by simp)
  have k2 := key 2 (by simp)
  have k3 := key 3 (by simp)
  simp only [Nat.add_zero] at k0
  rw [State.wordAt, k0, k1, k2, k3]
  exact wordOfBytes_of_wordBytes v

theorem byteAt_writeWord_other (s : State) (a : Nat) (v : Word) {x : Nat} (h : x < a ∨ a + 4 ≤ x) :
    (s.writeWord a v).byteAt x = s.byteAt x :=
  byteAt_writeBytes_other s a (wordBytes v) (by simpa using h)

/-- A word outside a write is left alone. -/
theorem wordAt_writeWord_other (s : State) (a : Nat) (v : Word) {x : Nat} (h : x + 4 ≤ a ∨ a + 4 ≤ x) :
    (s.writeWord a v).wordAt x = s.wordAt x := by
  simp only [State.wordAt]
  rw [byteAt_writeWord_other s a v (x := x) (by omega), byteAt_writeWord_other s a v (x := x + 1) (by omega),
    byteAt_writeWord_other s a v (x := x + 2) (by omega), byteAt_writeWord_other s a v (x := x + 3) (by omega)]

/-- A word's value is its bytes', big-endian (20_memory.md R62). -/
theorem wordAt_toNat (s : State) (a : Nat) :
    (s.wordAt a).toNat = (s.byteAt a).toNat * 2 ^ 24 + (s.byteAt (a + 1)).toNat * 2 ^ 16 +
      (s.byteAt (a + 2)).toNat * 2 ^ 8 + (s.byteAt (a + 3)).toNat :=
  wordOfBytes_toNat _ _ _ _

/-! Contexts -/

theorem ctx_setCtx_same (s : State) {c : Nat} (x : Ctx) (h : c < s.ctxs.length) : (s.setCtx c x).ctx c = x := by
  simp [State.ctx, List.getD_eq_getElem?_getD, h]

theorem ctx_setCtx_other (s : State) {c d : Nat} (x : Ctx) (h : d ≠ c) : (s.setCtx c x).ctx d = s.ctx d := by
  simp [State.ctx, List.getD_eq_getElem?_getD, List.getElem?_set_ne (Ne.symm h)]

theorem ctx_congr {s t : State} (hc : t.cfg = s.cfg) (hx : t.ctxs = s.ctxs) (c : Nat) : t.ctx c = s.ctx c := by
  simp [State.ctx, hc, hx]

/-! The handshake record -/

@[simp] theorem Handshake.words_length (h : Handshake) : h.words.length = 12 := rfl

@[simp] theorem Handshake.ofWords_words (h : Handshake) : Handshake.ofWords h.words = h := rfl

theorem Handshake.words_ofWords {ws : List Word} (h : ws.length = 12) : (Handshake.ofWords ws).words = ws := by
  match ws, h with
  | [_, _, _, _, _, _, _, _, _, _, _, _], _ => rfl

theorem Handshake.get_set_same (h : Handshake) {k : Nat} (hk : k < 12) (v : Word) : (h.set k v).get k = v := by
  simp [Handshake.get, Handshake.set, Handshake.words_ofWords, hk]

theorem Handshake.get_set_other (h : Handshake) {k j : Nat} (hj : j ≠ k) (v : Word) : (h.set k v).get j = h.get j := by
  simp [Handshake.get, Handshake.set, Handshake.words_ofWords, List.getElem?_set_ne (Ne.symm hj)]

theorem Handshake.get_ofWords {ws : List Word} (h : ws.length = 12) (k : Nat) :
    (Handshake.ofWords ws).get k = ws.getD k 0 := by
  rw [Handshake.get, Handshake.words_ofWords h]

/-- Byte k of words laid out big-endian (43_handshake.md R231). -/
theorem flatMap_wordBytes_getD : ∀ (ws : List Word) (k : Nat), k < 4 * ws.length →
    (ws.flatMap wordBytes).getD k 0 = beByte (ws.getD (k / 4) 0).toNat (k % 4)
  | [], k, hk => by simp at hk
  | w :: ws, k, hk => by
    simp only [List.flatMap_cons]
    by_cases h : k < 4
    · have e : k = 0 ∨ k = 1 ∨ k = 2 ∨ k = 3 := by omega
      rcases e with rfl | rfl | rfl | rfl <;> simp [wordBytes, beByte]
    · have e := flatMap_wordBytes_getD ws (k - 4) (by simp at hk; omega)
      have e0 : (wordBytes w ++ List.flatMap wordBytes ws).getD k 0 =
          (List.flatMap wordBytes ws).getD (k - 4) 0 := by
        rw [List.getD_eq_getElem?_getD, List.getElem?_append_right (by simp; omega), List.getD_eq_getElem?_getD,
          wordBytes_length]
      have e1 : k / 4 = (k - 4) / 4 + 1 := by omega
      have e2 : (k - 4) % 4 = k % 4 := by omega
      rw [e0, e, e1, e2]
      rfl

/-! How a command ends -/

/-- A check that passes is passed over. -/
theorem complete_passed {s done : State} {b : Bool} {e : ErrCode} {rest : List (Bool × ErrCode)} (h : b = false) :
    complete s ((b, e) :: rest) done = complete s rest done := by
  simp [complete, firstError, h]

/-- A check that fails ends the command with its error (60_exceptions.md R262). -/
theorem complete_failed {s done : State} {b : Bool} {e : ErrCode} {rest : List (Bool × ErrCode)} (h : b = true) :
    complete s ((b, e) :: rest) done = .next (s.failed e.code) := by
  simp [complete, firstError, h, raise]

/-- With no check left the command finishes. -/
theorem complete_nil (s done : State) : complete s [] done = .next { done with err := 0 } := rfl

/-- A command ends with the error of its first failed check, or finished (60_exceptions.md R262). -/
theorem complete_cases {s done t : State} {checks : List (Bool × ErrCode)} (h : complete s checks done = .next t) :
    (∃ e, firstError checks = some e ∧ t = { s with err := e.code, anyErr := true }) ∨
      (firstError checks = none ∧ t = { done with err := okCode }) := by
  unfold complete at h
  split at h
  · rename_i e he
    exact .inl ⟨e, he, by simpa [raise] using h.symm⟩
  · rename_i he
    exact .inr ⟨he, by simpa [finish] using h.symm⟩

/-- Every command that ends through `complete` answers a next state (60_exceptions.md R260). -/
theorem complete_next (s done : State) (checks : List (Bool × ErrCode)) : ∃ t, complete s checks done = .next t := by
  unfold complete
  split
  · exact ⟨_, rfl⟩
  · exact ⟨_, rfl⟩

/-- No check failed. -/
theorem firstError_none {checks : List (Bool × ErrCode)} :
    firstError checks = none ↔ ∀ x ∈ checks, x.1 = false := by
  induction checks with
  | nil => simp [firstError]
  | cons x rest ih =>
    obtain ⟨b, e⟩ := x
    cases b <;> simp [firstError, ih]

/-- The error raised is that of a check that failed, every check before it passed (60_exceptions.md R263). -/
theorem firstError_some {checks : List (Bool × ErrCode)} {e : ErrCode} (h : firstError checks = some e) :
    ∃ pre post, checks = pre ++ (true, e) :: post ∧ ∀ x ∈ pre, x.1 = false := by
  induction checks with
  | nil => simp [firstError] at h
  | cons x rest ih =>
    obtain ⟨b, e'⟩ := x
    cases b with
    | true =>
      obtain rfl : e' = e := by simpa [firstError] using h
      exact ⟨[], rest, rfl, by simp⟩
    | false =>
      obtain ⟨pre, post, rfl, hp⟩ := ih (by simpa [firstError] using h)
      exact ⟨(false, e') :: pre, post, rfl, by simpa using hp⟩

/-- The codes of 60_exceptions.md R261 are 1 to 0x0B, never 0. -/
theorem ErrCode.code_range (e : ErrCode) : 0 < e.code.toNat ∧ e.code.toNat ≤ 0x0B := by
  cases e <;> decide

/-! The allocator -/

/-- All that a request can come to: the lined-up answer breaks the contract; Fail; or Ok(a) under the contract, which
makes the buffer live. Nothing but the allocator's fields changes (20_memory.md R70). -/
theorem requestAlloc_cases (s : State) (owner : Nat) (n : Word) :
    (∃ a rest, s.allocAnswers = some a :: rest ∧ allocOk s n a = false ∧ requestAlloc s owner n = .broken a) ∨
    (∃ answers draws, requestAlloc s owner n =
      .failed { s with allocAnswers := answers, draws := draws, allocTrace := .alloc n none :: s.allocTrace }) ∨
    (∃ a answers draws, allocOk s n a = true ∧ requestAlloc s owner n =
      .granted a { s with allocAnswers := answers, draws := draws, live := ⟨owner, a, n⟩ :: s.live,
                          allocTrace := .alloc n (some a) :: s.allocTrace }) := by
  unfold requestAlloc
  split
  · rename_i rest h
    exact .inr (.inl ⟨rest, s.draws, rfl⟩)
  · rename_i a rest h
    split
    · rename_i hok
      exact .inr (.inr ⟨a, rest, s.draws, hok, rfl⟩)
    · rename_i hok
      exact .inl ⟨a, rest, h, by simpa using hok, rfl⟩
  · rename_i h
    split
    · exact .inr (.inl ⟨[], s.draws + 1, by simp [allocFailed, h]⟩)
    · rename_i a ha
      split
      · rename_i hok
        exact .inr (.inr ⟨a, [], s.draws + 1, hok, by simp [allocGranted, h]⟩)
      · exact .inr (.inl ⟨[], s.draws + 1, by simp [allocFailed, h]⟩)

/-! Second reads -/

/-- A CLONE depends on the state of its second reads by the bytes there alone. -/
theorem cloneReading_congr {p q : State} (h : ∀ x, p.byteAt x = q.byteAt x) (dst src : Byte) (s : State) :
    cloneReading dst src p s = cloneReading dst src q s := by
  simp only [cloneReading, cloned, readBytes_congr h]

/-- Where the second reads see what the first ones do, a command is executed as it is without a race. -/
theorem execReading_same {p s : State} (h : ∀ x, p.byteAt x = s.byteAt x) (i : Instr) :
    execReading p i s = exec i s := by
  cases i with
  | clone dst src => exact cloneReading_congr h dst src s
  | _ => rfl

/-- All that the state of the second reads can change: the memory a command ends with. -/
theorem execReading_cases (p : State) (i : Instr) (s : State) :
    execReading p i s = exec i s ∨
      ∃ t m, exec i s = .next t ∧ execReading p i s = .next { t with mem := m } := by
  cases i with
  | clone dst src =>
    show cloneReading dst src p s = cloneReading dst src s s ∨
      ∃ t m, cloneReading dst src s s = .next t ∧ cloneReading dst src p s = .next { t with mem := m }
    unfold cloneReading
    split
    · exact .inl rfl
    · split
      · exact .inl rfl
      · exact .inl rfl
      · exact .inr ⟨_, _, rfl, rfl⟩
  | _ => exact .inl rfl

/-- Where the second reads see what the first ones do, a racing CMD write is a CMD write. -/
theorem issueReading_same {p s : State} (h : ∀ x, p.byteAt x = s.byteAt x) (w : Word) :
    issueReading p w s = issue w s := by
  unfold issueReading issue
  cases decode w with
  | ok i => exact execReading_same (s := { s with cmd := w }) h i
  | error e => rfl

end Sys2Proof.Machine
end

