-- ==== Sys2Proof/Laws/PerInstr.lean ====
section
/-! SUPPORT. The families of statements about every instruction, one lemma per constructor (LAWS.json). -/

namespace Sys2Proof.Laws

/-- The fields of a command's word are well formed, and the word is their Enc with nothing lost (30_encoding.md R94,
R95). -/
def EncodedFields.Statement (i : Instr) : Prop :=
  i.fields.wellFormed = true ∧ (encode i).toNat = i.fields.enc

/-- A command with a context and no other field. -/
theorem EncodedFields.of_ctx {i : Instr} {op : Nat} {c : Byte} (hf : i.fields = ⟨op, c.toNat, 0, 0, 0⟩)
    (hu : Fields.usesCtx ⟨op, 0, 0, 0, 0⟩ = true) (hop : op < 256) : EncodedFields.Statement i := by
  have hc := c.isLt
  have hu' : Fields.usesCtx ⟨op, c.toNat, 0, 0, 0⟩ = true := hu
  refine ⟨?_, ?_⟩
  · rw [hf]
    simp [Fields.wellFormed, Fields.opAssigned, Fields.ctxOk, Fields.srcOk, Fields.lpOk, Fields.rpOk, hu', hc]
  · simp only [encode, hf, Fields.enc, BitVec.toNat_ofNat]
    omega

theorem EncodedFields.getFlag (c : Byte) : EncodedFields.Statement (.getFlag c) :=
  of_ctx rfl rfl (by decide)

theorem EncodedFields.getType (c : Byte) : EncodedFields.Statement (.getType c) :=
  of_ctx rfl rfl (by decide)

theorem EncodedFields.getExtType (c : Byte) : EncodedFields.Statement (.getExtType c) :=
  of_ctx rfl rfl (by decide)

theorem EncodedFields.getSeqNo (c : Byte) : EncodedFields.Statement (.getSeqNo c) :=
  of_ctx rfl rfl (by decide)

theorem EncodedFields.getAckSeqNo (c : Byte) : EncodedFields.Statement (.getAckSeqNo c) :=
  of_ctx rfl rfl (by decide)

theorem EncodedFields.getMsgBoundary (c : Byte) : EncodedFields.Statement (.getMsgBoundary c) :=
  of_ctx rfl rfl (by decide)

theorem EncodedFields.getMsgOrderFlag (c : Byte) : EncodedFields.Statement (.getMsgOrderFlag c) :=
  of_ctx rfl rfl (by decide)

theorem EncodedFields.getMsgSeq (c : Byte) : EncodedFields.Statement (.getMsgSeq c) :=
  of_ctx rfl rfl (by decide)

theorem EncodedFields.getWord (c : Byte) : EncodedFields.Statement (.getWord c) :=
  of_ctx rfl rfl (by decide)

theorem EncodedFields.setWord (c : Byte) : EncodedFields.Statement (.setWord c) :=
  of_ctx rfl rfl (by decide)

theorem EncodedFields.getLength (c : Byte) : EncodedFields.Statement (.getLength c) :=
  of_ctx rfl rfl (by decide)

theorem EncodedFields.setLength (c : Byte) : EncodedFields.Statement (.setLength c) :=
  of_ctx rfl rfl (by decide)

theorem EncodedFields.pack (c : Byte) (lp rp : Bool) : EncodedFields.Statement (.pack c lp rp) := by
  have hc := c.isLt
  cases lp <;> cases rp <;>
    simp [EncodedFields.Statement, Fields.wellFormed, Fields.opAssigned, Fields.usesCtx, Fields.ctxOk, Fields.srcOk,
      Fields.lpOk, Fields.rpOk, Instr.fields, encode, Fields.enc, hc] <;> omega

theorem EncodedFields.getPacketVector (c : Byte) : EncodedFields.Statement (.getPacketVector c) :=
  of_ctx rfl rfl (by decide)

theorem EncodedFields.clone (dst src : Byte) : EncodedFields.Statement (.clone dst src) := by
  have hd := dst.isLt
  have hs := src.isLt
  simp [EncodedFields.Statement, Fields.wellFormed, Fields.opAssigned, Fields.usesCtx, Fields.ctxOk, Fields.srcOk,
    Fields.lpOk, Fields.rpOk, Instr.fields, encode, Fields.enc, hd, hs]
  omega

theorem EncodedFields.bind (c : Byte) : EncodedFields.Statement (.bind c) :=
  of_ctx rfl rfl (by decide)

theorem EncodedFields.setPayload (c : Byte) : EncodedFields.Statement (.setPayload c) :=
  of_ctx rfl rfl (by decide)

theorem EncodedFields.release (c : Byte) : EncodedFields.Statement (.release c) :=
  of_ctx rfl rfl (by decide)

theorem EncodedFields.getCtxState (c : Byte) : EncodedFields.Statement (.getCtxState c) :=
  of_ctx rfl rfl (by decide)

theorem EncodedFields.getFrameId (c : Byte) : EncodedFields.Statement (.getFrameId c) :=
  of_ctx rfl rfl (by decide)

theorem EncodedFields.setFrameId (c : Byte) : EncodedFields.Statement (.setFrameId c) :=
  of_ctx rfl rfl (by decide)

theorem EncodedFields.getChunkId (c : Byte) : EncodedFields.Statement (.getChunkId c) :=
  of_ctx rfl rfl (by decide)

theorem EncodedFields.setChunkId (c : Byte) : EncodedFields.Statement (.setChunkId c) :=
  of_ctx rfl rfl (by decide)

theorem EncodedFields.getTotalChunks (c : Byte) : EncodedFields.Statement (.getTotalChunks c) :=
  of_ctx rfl rfl (by decide)

theorem EncodedFields.setTotalChunks (c : Byte) : EncodedFields.Statement (.setTotalChunks c) :=
  of_ctx rfl rfl (by decide)

theorem EncodedFields.getFrameDeadline (c : Byte) : EncodedFields.Statement (.getFrameDeadline c) :=
  of_ctx rfl rfl (by decide)

theorem EncodedFields.setFrameDeadline (c : Byte) : EncodedFields.Statement (.setFrameDeadline c) :=
  of_ctx rfl rfl (by decide)

theorem EncodedFields.hsNew : EncodedFields.Statement .hsNew := by
  unfold EncodedFields.Statement
  decide

theorem EncodedFields.hsGet : EncodedFields.Statement .hsGet := by
  unfold EncodedFields.Statement
  decide

theorem EncodedFields.hsSet : EncodedFields.Statement .hsSet := by
  unfold EncodedFields.Statement
  decide

theorem EncodedFields.hsSerialize : EncodedFields.Statement .hsSerialize := by
  unfold EncodedFields.Statement
  decide

theorem EncodedFields.hsDeserialize : EncodedFields.Statement .hsDeserialize := by
  unfold EncodedFields.Statement
  decide

end Sys2Proof.Laws
end

