-- ==== Sys2Proof/Tests/Slice0.lean ====
section
/-! SUPPORT. Tests: the checks of WellFormed refuse ill-formed terms, every command's word decodes, single steps whose
results are those of 95_test_vectors.md (named by their vector numbers), and for every statement with hypotheses a
concrete state and operands that meet them. -/

namespace Sys2Proof.Tests

open Sys2Proof.Machine

-- One proof at a time: many at once ask for more threads than the sandbox has memory for.
set_option Elab.async false

/-! ## Helpers -/

/-- Does the machine go on? -/
def isNext : Host.Outcome State Fault Refusal → Bool
  | .next _ => true
  | .fault _ => false
  | .refused _ => false

/-- The next state, the reset state where there is none. -/
def result : Host.Outcome State Fault Refusal → State
  | .next t => t
  | .fault _ => State.reset
  | .refused _ => State.reset

theorem eq_result {o : Host.Outcome State Fault Refusal} (h : isNext o = true) : o = .next (result o) := by
  cases o <;> simp_all [isNext, result]

/-- The state after the step that takes a CMD write of w. -/
def one (w : Nat) (s : State) : State := result (step (s.withFetchWord 32 w))

/-- The state after one command. -/
def after (i : Instr) (s : State) : State := result (exec i s)

/-- The state with operands in ARG0 and ARG1. -/
def args (a0 a1 : Word) (s : State) : State := { s with arg0 := a0, arg1 := a1 }

/-- Reset with some bytes in memory. -/
def holding (m : Memory) : State := { State.reset with mem := m }

/-- The header and payload of program P2's datagram at 0x3000, the bytes that are not 0. -/
def datagram : Memory :=
  [(0x3003, 0x64), (0x3004, 0xC0), (0x3007, 0x01), (0x3009, 0x4C), (0x300A, 0x4B), (0x300B, 0x40), (0x300F, 0x05),
    (0x3011, 0x07), (0x3013, 0x03), (0x3014, 1), (0x3015, 2), (0x3016, 3), (0x3017, 4), (0x3018, 5), (0x3019, 6),
    (0x301A, 7), (0x301B, 8)]

/-- Context 0 bound over P2's datagram, the allocator about to answer Ok(0x00100000). -/
def bound : State :=
  { holding datagram with
    ctxs := State.reset.ctxs.set 0 ⟨0x3000, 0x3014, 8, 0, .borrowed⟩, allocAnswers := [some 0x00100000] }

/-- Context 1 owns the 8 bytes at 0x00100000. -/
def owned : State :=
  { holding [(0x00080020, 0x64), (0x00100000, 0xEE)] with
    ctxs := State.reset.ctxs.set 1 ⟨0x00080020, 0x00100000, 8, 8, .owned⟩, live := [⟨1, 0x00100000, 8⟩] }

/-- Mapped is false on [0x5000, 0x5FFF], and context 0 is bound there (V28). -/
def holed : State :=
  let s := State.resetOf { Config.standard with holes := [(0x5000, 0x1000)] }
  { s with ctxs := s.ctxs.set 0 ⟨0x5000, 0x5014, 0, 0, .borrowed⟩ }

/-- The record of 43_handshake.md R235, sealed. -/
def sealedRecord : State :=
  { State.reset with
    hs := ⟨4, 1, 0x12345678, 1500, 8192, 1, 0x0A0B0C0D, 0xCAFEBABE, 0xC0A80001, 0, 0, 0⟩, sealed := true }

/-- The state with one input. -/
def given (x : Input) (s : State) : State := { s with inputs := [x] }

/-! ## WellFormed: each check passes a good term and refuses an ill-formed one -/

theorem test_wellFormed_good : Fields.wellFormed ⟨0x14, 2, 5, 0, 0⟩ = true ∧ Config.standard.wellFormed = true := by
  decide

theorem test_wellFormed_opcode : Fields.opAssigned ⟨0x0B, 0, 0, 0, 0⟩ = false ∧
    Fields.wellFormed ⟨0x0B, 0, 0, 0, 0⟩ = false := by decide

theorem test_wellFormed_ctx : Fields.ctxOk ⟨0x30, 1, 0, 0, 0⟩ = false ∧ Fields.ctxOk ⟨0x01, 256, 0, 0, 0⟩ = false ∧
    Fields.wellFormed ⟨0x30, 1, 0, 0, 0⟩ = false := by decide

theorem test_wellFormed_src : Fields.srcOk ⟨0x01, 0, 1, 0, 0⟩ = false ∧ Fields.srcOk ⟨0x14, 0, 256, 0, 0⟩ = false ∧
    Fields.wellFormed ⟨0x01, 0, 1, 0, 0⟩ = false := by decide

theorem test_wellFormed_lp : Fields.lpOk ⟨0x01, 0, 0, 1, 0⟩ = false ∧ Fields.lpOk ⟨0x12, 0, 0, 2, 0⟩ = false ∧
    Fields.wellFormed ⟨0x01, 0, 0, 1, 0⟩ = false := by decide

theorem test_wellFormed_rp : Fields.rpOk ⟨0x14, 0, 0, 0, 1⟩ = false ∧ Fields.rpOk ⟨0x12, 0, 0, 0, 2⟩ = false ∧
    Fields.wellFormed ⟨0x14, 0, 0, 0, 1⟩ = false := by decide

theorem test_wellFormed_nCtx : Config.nCtxOk ⟨1, 0, 0, []⟩ = false ∧ Config.nCtxOk ⟨257, 0, 0, []⟩ = false ∧
    Config.wellFormed ⟨1, 0, 0, []⟩ = false := by decide

theorem test_wellFormed_winAligned : Config.winAligned ⟨4, 16, 0, []⟩ = false ∧
    Config.wellFormed ⟨4, 16, 0, []⟩ = false := by decide

theorem test_wellFormed_winFits : Config.winFits ⟨4, 0xFFFFFFA0, 0, []⟩ = false ∧
    Config.winFits ⟨4, 0xFFFFFF80, 0, []⟩ = true ∧ Config.wellFormed ⟨4, 0xFFFFFFA0, 0, []⟩ = false := by decide

theorem test_wellFormed_winMapped : Config.winMapped ⟨4, 0x80000, 0, [(0x8007F, 1)]⟩ = false ∧
    Config.winMapped ⟨4, 0x80000, 0, [(0x80080, 1)]⟩ = true ∧
    Config.wellFormed ⟨4, 0x80000, 0, [(0x8007F, 1)]⟩ = false := by decide

/-! ## Decoding: every command's word, written out from 30_encoding.md R90 to R101 -/

theorem test_decode_header :
    decode 0b00000000000000000000011100000001 = .ok (.getFlag 7) ∧
    decode 0b00000000000000000000000100000010 = .ok (.getType 1) ∧
    decode 0b00000000000000000000001000000011 = .ok (.getExtType 2) ∧
    decode 0b00000000000000000000001100000100 = .ok (.getSeqNo 3) ∧
    decode 0b00000000000000001111111100000101 = .ok (.getAckSeqNo 255) ∧
    decode 0b00000000000000000000000000000110 = .ok (.getMsgBoundary 0) ∧
    decode 0b00000000000000000000000000000111 = .ok (.getMsgOrderFlag 0) ∧
    decode 0b00000000000000000000010000001000 = .ok (.getMsgSeq 4) ∧
    decode 0b00000000000000000000010000001001 = .ok (.getWord 4) ∧
    decode 0b00000000000000000000000100001010 = .ok (.setWord 1) ∧
    decode 0b00000000000000000000000100010000 = .ok (.getLength 1) ∧
    decode 0b00000000000000000000000100010001 = .ok (.setLength 1) := by decide

theorem test_decode_packet :
    decode 0b00000000000000000000000000010010 = .ok (.pack 0 false false) ∧
    decode 0b00000001000000000000001100010010 = .ok (.pack 3 true false) ∧
    decode 0b00000010000000000000001000010010 = .ok (.pack 2 false true) ∧
    decode 0b00000011000000000000000000010010 = .ok (.pack 0 true true) ∧
    decode 0b00000000000000000000001000010011 = .ok (.getPacketVector 2) ∧
    decode 0b00000000000001010000001000010100 = .ok (.clone 2 5) ∧
    decode 0b00000000000000000000000100010101 = .ok (.bind 1) ∧
    decode 0b00000000000000000000000000010110 = .ok (.setPayload 0) ∧
    decode 0b00000000000000000000000100010111 = .ok (.release 1) ∧
    decode 0b00000000000000000000000100011000 = .ok (.getCtxState 1) := by decide

theorem test_decode_frame :
    decode 0b00000000000000000000000000100000 = .ok (.getFrameId 0) ∧
    decode 0b00000000000000000000000000100001 = .ok (.setFrameId 0) ∧
    decode 0b00000000000000000000000000100010 = .ok (.getChunkId 0) ∧
    decode 0b00000000000000000000000100100011 = .ok (.setChunkId 1) ∧
    decode 0b00000000000000000000000000100100 = .ok (.getTotalChunks 0) ∧
    decode 0b00000000000000000000001000100101 = .ok (.setTotalChunks 2) ∧
    decode 0b00000000000000000000000000100110 = .ok (.getFrameDeadline 0) ∧
    decode 0b00000000000000000000000000100111 = .ok (.setFrameDeadline 0) := by decide

theorem test_decode_handshake :
    decode 0b00000000000000000000000000110000 = .ok .hsNew ∧
    decode 0b00000000000000000000000000110001 = .ok .hsGet ∧
    decode 0b00000000000000000000000000110010 = .ok .hsSet ∧
    decode 0b00000000000000000000000000110011 = .ok .hsSerialize ∧
    decode 0b00000000000000000000000000110100 = .ok .hsDeserialize := by decide

/-- V20: the words that raise E_ILLEGAL. -/
theorem test_decode_illegal :
    decode 0x00000000 = .error (.unassigned 0x00) ∧ decode 0x0000000B = .error (.unassigned 0x0B) ∧
    decode 0x000000FF = .error (.unassigned 0xFF) ∧ decode 0x04000001 = .error (.unusedField "GET_FLAG") ∧
    decode 0x00010001 = .error (.unusedField "GET_FLAG") ∧ decode 0x01000001 = .error (.unusedField "GET_FLAG") ∧
    decode 0x02000014 = .error (.unusedField "CLONE") ∧ decode 0x00000130 = .error (.unusedField "HS_NEW") := by
  decide

theorem test_encode : encode (.pack 2 false true) = 0x02000212 ∧ encode (.clone 2 5) = 0x00050214 := by decide

/-! ## Single steps -/

/-- V21 -/
theorem test_getFlag : (one 0x00000001 (holding [(0x80000, 0xD5), (0x80001, 0xA3)])).res0 = 1 ∧
    (one 0x00000001 (holding [(0x80000, 0x7F), (0x80001, 0xFF), (0x80002, 0xFF), (0x80003, 0xFF)])).res0 = 0 := by
  decide +kernel

/-- V21 -/
theorem test_getType : (one 0x00000002 (holding [(0x80000, 0xD5), (0x80001, 0xA3)])).res0 = 5 ∧
    (one 0x00000002 (holding [(0x80000, 0x8F), (0x80001, 0xFF), (0x80002, 0x12), (0x80003, 0x34)])).res0 = 0 := by
  decide +kernel

/-- V21 -/
theorem test_getExtType : (one 0x00000003 (holding [(0x80000, 0xD5), (0x80001, 0xA3)])).res0 = 0x5A3 ∧
    (one 0x00000003 (holding [(0x80000, 0x12), (0x80001, 0x34), (0x80002, 0x56), (0x80003, 0x78)])).res0 = 0x234 := by
  decide +kernel

/-- V21 -/
theorem test_getSeqNo : (one 0x00000004 (holding [(0x80000, 0xD5), (0x80001, 0xA3)])).res0 = 0x55A30000 ∧
    (one 0x00000004 (holding [(0x80000, 0x8F), (0x80001, 0xFF), (0x80002, 0x12), (0x80003, 0x34)])).res0 =
      0x0FFF1234 := by
  decide +kernel

/-- V22, 90_conflicts.md C1: all 32 bits -/
theorem test_getAckSeqNo : (one 0x00000005 (holding [(0x80004, 0xA0), (0x80007, 0x05)])).res0 = 0xA0000005 := by
  decide +kernel

/-- V22 -/
theorem test_getMsgBoundary : (one 0x00000006 (holding [(0x80004, 0xA0), (0x80007, 0x05)])).res0 = 2 ∧
    (one 0x00000006 (holding [(0x80004, 0x40), (0x80007, 0x01)])).res0 = 1 := by decide +kernel

/-- V22 -/
theorem test_getMsgOrderFlag : (one 0x00000007 (holding [(0x80004, 0x20)])).res0 = 1 ∧
    (one 0x00000007 (holding [(0x80004, 0xDF), (0x80005, 0xFF), (0x80006, 0xFF), (0x80007, 0xFF)])).res0 = 0 := by
  decide +kernel

/-- V22 -/
theorem test_getMsgSeq :
    (one 0x00000008 (holding [(0x80004, 0xDF), (0x80005, 0xFF), (0x80006, 0xFF), (0x80007, 0xFF)])).res0 =
      0x1FFFFFFF := by decide +kernel

/-- V23: word 4 after V1 -/
theorem test_getWord :
    (one 0x00000009 (args 4 0 (holding [(0x80010, 0x30), (0x80011, 0x39), (0x80012, 0x7B), (0x80013, 0xC8)]))).res0 =
      0x30397BC8 := by decide +kernel

/-- V23, V20: index 5 is E_ARG, an absent context before it E_CTX -/
theorem test_getWord_errors : (one 0x00000009 (args 5 0 State.reset)).statusWord = 0x00000203 ∧
    (one 0x00000409 (args 5 0 State.reset)).statusWord = 0x00000202 := by decide +kernel

/-- V23 -/
theorem test_setWord : (one 0x0000000A (args 3 0x11223344 State.reset)).mem =
    [(0x8000C, 0x11), (0x8000D, 0x22), (0x8000E, 0x33), (0x8000F, 0x44)] := by decide +kernel

/-- V23: an index far past the end writes nothing -/
theorem test_setWord_arg : (one 0x0000000A (args 0xFFFFFFFF 1 State.reset)).mem = [] ∧
    (one 0x0000000A (args 0xFFFFFFFF 1 State.reset)).err = 0x03 := by decide +kernel

/-- P2's datagram: 28 bytes, a payload of 8 -/
theorem test_getLength : (one 0x00000010 bound).res0 = 8 := by decide +kernel

/-- V24 -/
theorem test_setLength : ((one 0x00000011 (args 0xFFFFFFFF 0 State.reset)).ctx 0).plen = 0xFFFFFFFF ∧
    (one 0x00000111 (args 8 0 owned)).err = 0 := by decide +kernel

/-- V24 -/
theorem test_setLength_range : (one 0x00000111 (args 9 0 owned)).err = 0x09 ∧
    ((one 0x00000111 (args 9 0 owned)).ctx 1).plen = 8 := by decide +kernel

/-- V25: PACK.L, PACK.R -/
theorem test_pack_control :
    (one 0x01000012 (args 0x90000000 123456 State.reset)).mem =
      [(0x80000, 0x90), (0x80005, 0x01), (0x80006, 0xE2), (0x80007, 0x40)] ∧
    (one 0x02000212 { State.reset with arg0 := 0x90000000, arg2 := 0x1000, arg3 := 64 }).ctx 2 =
      ⟨0x80040, 0x1000, 64, 0, .borrowed⟩ := by decide +kernel

/-- V25: a data PACK clears the flag only; PACK.LR on an OWNED context is E_ARG before E_OWNED -/
theorem test_pack_data_and_errors :
    (one 0x00000012 (args 0x12345678 0 (holding [(0x80000, 0x80), (0x80003, 0x07)]))).mem = [(0x80003, 0x07)] ∧
    (one 0x03000112 (args 0x80000000 0 owned)).err = 0x03 ∧ (one 0x00000112 (args 0x80000000 0 owned)).err = 0x04 := by
  decide +kernel

/-- V26: c3 fresh -/
theorem test_getPacketVector : (one 0x00000313 State.reset).res0 = 0x80060 ∧ (one 0x00000313 State.reset).res1 = 20 ∧
    (one 0x00000013 bound).res2 = 0x3014 ∧ (one 0x00000013 bound).res3 = 8 := by decide +kernel

/-- V27, P2: the clone's registers, a header byte and a payload byte -/
theorem test_clone : (one 0x00000114 bound).ctx 1 = ⟨0x80020, 0x100000, 8, 8, .owned⟩ ∧
    (one 0x00000114 bound).byteAt 0x80024 = 0xC0 ∧ (one 0x00000114 bound).byteAt 0x100007 = 8 := by decide +kernel

/-- V27: the answer Fail; the overlapping case, whose source bytes 16 to 19 are reserved -/
theorem test_clone_fail_and_overlap :
    (one 0x00000114 { bound with allocAnswers := [none] }).statusWord = 0x0000020B ∧
    (one 0x00010014
      { holding [(0x80004, 4), (0x80013, 0x13)] with
        ctxs := State.reset.ctxs.set 1 ⟨0x80004, 0x80018, 0, 0, .borrowed⟩,
        allocAnswers := [some 0x300000] }).mem = [(0x80000, 4), (0x8000F, 0x13)] := by decide +kernel

/-- V28 -/
theorem test_bind : (one 0x00000115 (args 0x2000 84 State.reset)).ctx 1 = ⟨0x2000, 0x2014, 64, 0, .borrowed⟩ ∧
    (one 0x00000115 (args 0xFFFFFFEC 20 State.reset)).ctx 1 = ⟨0xFFFFFFEC, 0, 0, 0, .borrowed⟩ := by decide +kernel

/-- V28 -/
theorem test_bind_errors : (one 0x00000115 (args 0x2000 19 State.reset)).err = 0x06 ∧
    (one 0x00000115 (args 0xFFFFFFED 20 State.reset)).err = 0x09 ∧
    (one 0x00000115 (args 0x2000 19 owned)).err = 0x04 := by decide +kernel

/-- V29 -/
theorem test_setPayload : ((one 0x00000016 (args 0xFFFFFFFF 1 State.reset)).ctx 0).paddr = 0xFFFFFFFF ∧
    (one 0x00000016 (args 0xFFFFFFFF 2 State.reset)).err = 0x09 ∧
    (one 0x00000116 (args 0x1000 4 owned)).err = 0x04 := by decide +kernel

/-- V29: an owned context is freed once, its window zeroed, its buffer's bytes left -/
theorem test_release_owned : (one 0x00000117 owned).ctx 1 = ⟨0x80020, 0, 0, 0, .borrowed⟩ ∧
    (one 0x00000117 owned).mem = [(0x100000, 0xEE)] ∧ (one 0x00000117 owned).allocTrace = [.free 0x100000] := by
  decide +kernel

/-- V29: a bound context frees nothing -/
theorem test_release_bound : (one 0x00000017 bound).mem = datagram ∧ (one 0x00000017 bound).allocTrace = [] := by
  decide +kernel

/-- V29 -/
theorem test_getCtxState : (one 0x00000118 owned).res0 = 1 ∧ (one 0x00000118 owned).res1 = 8 ∧
    (one 0x00000018 bound).res0 = 0 := by decide +kernel

/-- P2: frame 7, chunk 0, 3 chunks; the deadline of the datagram -/
theorem test_frame_getters : (one 0x00000020 bound).res0 = 7 ∧ (one 0x00000022 bound).res0 = 0 ∧
    (one 0x00000024 bound).res0 = 3 ∧ (one 0x00000026 bound).res0 = 0x004C4B40 := by decide +kernel

/-- V30: chunk 3 of 5 -/
theorem test_getChunkId : (one 0x00000022 (holding [(0x80012, 3), (0x80013, 5)])).res0 = 3 := by decide +kernel

/-- V30, V2 -/
theorem test_setFrameId : (one 0x00000021 (args 0x00013039 0 State.reset)).mem = [(0x80010, 0x30), (0x80011, 0x39)] ∧
    (one 0x00000021 (args 65536 0 State.reset)).mem = [] := by decide +kernel

/-- V30 -/
theorem test_setChunkId :
    (one 0x00000023 (args 0 0
      (holding [(0x80010, 0x12), (0x80011, 0x34), (0x80012, 0x56), (0x80013, 0x78)]))).mem =
      [(0x80010, 0x12), (0x80011, 0x34), (0x80013, 0x78)] := by decide +kernel

/-- V30 -/
theorem test_setTotalChunks : (one 0x00000025 (args 0xFFFFFF01 0 State.reset)).mem = [(0x80013, 0x01)] ∧
    (one 0x00000025 (args 0x100 0 (holding [(0x80012, 0x56), (0x80013, 0x78)]))).mem = [(0x80012, 0x56)] := by
  decide +kernel

/-- V1 -/
theorem test_setFrameDeadline : (one 0x00000027 (args 0x499602D2 0 State.reset)).mem =
    [(0x80008, 0x49), (0x80009, 0x96), (0x8000A, 0x02), (0x8000B, 0xD2)] := by decide +kernel

/-- V31, V32 -/
theorem test_hsNew : (one 0x00000030 sealedRecord).hs.get 2 = 0 ∧ (one 0x00000030 sealedRecord).statusWord = 0 := by
  decide +kernel

/-- V31 -/
theorem test_hsGet : (one 0x00000031 (args 7 0 sealedRecord)).res0 = 0xCAFEBABE ∧
    (one 0x00000031 (args 12 0 sealedRecord)).err = 0x03 := by decide +kernel

/-- V31 -/
theorem test_hsSet : (one 0x00000032 (args 3 1500 State.reset)).hs.mss = 1500 ∧
    (one 0x00000032 (args 3 1400 sealedRecord)).statusWord = 0x00000305 ∧
    (one 0x00000032 (args 12 1 sealedRecord)).err = 0x03 := by decide +kernel

/-- V31, 43_handshake.md R235: sealed, 48 bytes, the byte order -/
theorem test_hsSerialize : (one 0x00000033 (args 0x4000 48 sealedRecord)).res0 = 48 ∧
    (one 0x00000033 (args 0x4000 48 sealedRecord)).wordAt 0x4008 = 0x12345678 ∧
    (one 0x00000033 (args 0x4000 48 sealedRecord)).byteAt 0x4008 = 0x12 ∧
    (one 0x00000033 (args 0x4000 48 sealedRecord)).byteAt 0x4030 = 0 := by decide +kernel

/-- V31 -/
theorem test_hsSerialize_errors : (one 0x00000033 (args 0xFFFFFFFF 47 State.reset)).err = 0x07 ∧
    (one 0x00000033 (args 0xFFFFFFD1 48 State.reset)).err = 0x09 ∧
    (one 0x00000033 (args 0xFFFFFFD0 48 State.reset)).err = 0x00 := by decide +kernel

/-- P2's datagram read as a record: words 0 and 1, RES0 = 48, not sealed -/
theorem test_hsDeserialize : (one 0x00000034 (args 0x3000 100 (holding datagram))).hs.version = 100 ∧
    (one 0x00000034 (args 0x3000 100 (holding datagram))).hs.sockType = 0xC0000001 ∧
    (one 0x00000034 (args 0x3000 100 (holding datagram))).res0 = 48 ∧
    (one 0x00000034 (args 0x3000 100 (holding datagram))).sealed = false := by decide +kernel

/-- V31 -/
theorem test_hsDeserialize_errors : (one 0x00000034 (args 0x4000 10 sealedRecord)).err = 0x05 ∧
    (one 0x00000034 (args 0x4000 47 State.reset)).err = 0x08 := by decide +kernel

/-- V32: steps 2, 4 and 5 -/
theorem test_status : (one 0x00000000 State.reset).statusWord = 0x00000201 ∧
    (result (step (given (.portWrite 0x04 .bits32 0xFFFFFDFF) { State.reset with anyErr := true }))).statusWord =
      0x00000200 ∧
    (result (step (given (.portWrite 0x04 .bits32 0x200) { State.reset with anyErr := true }))).statusWord = 0 := by
  decide +kernel

/-- V20: E_CTX of the words whose context is absent, and E_BUS of V28 -/
theorem test_ctx_and_bus : (one 0x0000FF01 State.reset).err = 0x02 ∧ (one 0x00050214 State.reset).err = 0x02 ∧
    (one 0x00000001 holed).err = 0x0A ∧ (one 0x00000010 holed).err = 0x00 := by decide +kernel

/-- 70_reset_and_hazards.md R308: a CLONE whose payload is the header's first byte reads a racing byte as two values, the
one held before (0x00) as header, the one being stored (0xAA) as payload; SET_FRAMEID's own byte may be what stays. -/
theorem test_race :
    let s := { bound with ctxs := State.reset.ctxs.set 0 ⟨0x3000, 0x3000, 1, 0, .borrowed⟩ }
    let t := result (raceWith (fun j => j) 0x00000114 [(0x3000, 0xAA)] s)
    t.byteAt 0x80020 = 0x00 ∧ t.byteAt 0x100000 = 0xAA ∧ t.byteAt 0x3000 = 0xAA ∧
      (result (raceWith (fun j => j) 0x00000021 [(0x3010, 0xAA)] (args 0x1234 0 bound))).byteAt 0x3010 = 0x12 := by
  decide +kernel

/-- V23, P2: MW32 and MR32 are big-endian, at any byte address. -/
theorem test_memory_accesses :
    (result (step (given (.memWrite32 0x2001 0xAABBCCDD) State.reset))).mem =
      [(0x2001, 0xAA), (0x2002, 0xBB), (0x2003, 0xCC), (0x2004, 0xDD)] ∧
    (result (step (given (.memRead32 0x3010) bound))).hostReads = [0x00070003] := by decide +kernel

/-! ## Witnesses: states and operands that meet the hypotheses of each statement, clause by clause -/

/-- The reset state and the others of this file meet the invariant. -/
theorem witness_states : State.reset.Inv = true ∧ bound.Inv = true ∧ owned.Inv = true ∧ holed.Inv = true ∧
    sealedRecord.Inv = true := by decide +kernel

theorem witness_ReservedOpcodesRaiseIllegal :
    ∀ n ∈ [0x00000000, 0x0000000B, 0x0000000F, 0x00000019, 0x0000001F, 0x00000028, 0x0000002F, 0x00000035, 0xFFFFFFFF],
      ∃ op, op = (BitVec.ofNat 32 n).toNat % 256 ∧
        (op = 0x00 ∨ (0x0B ≤ op ∧ op ≤ 0x0F) ∨ (0x19 ≤ op ∧ op ≤ 0x1F) ∨ (0x28 ≤ op ∧ op ≤ 0x2F) ∨ 0x35 ≤ op) := by
  intro n hn
  refine ⟨_, rfl, ?_⟩
  revert n
  decide

theorem witness_UndecodedWordRaisesIllegal :
    (given (.portWrite 0x00 .bits32 0x04000001) State.reset).inputs = [.portWrite 0x00 .bits32 0x04000001] ∧
    decode 0x04000001 = .error (.unusedField "GET_FLAG") := by decide

theorem witness_StepRunsDecodedCommand :
    (given (.portWrite 0x00 .bits32 0x00000021) State.reset).inputs = [.portWrite 0x00 .bits32 0x00000021] ∧
    decode 0x00000021 = .ok (.setFrameId 0) := by decide

theorem witness_IdleBlockKeepsState : State.reset.inputs = [] := by decide

theorem witness_StatusWriteClearsAnyErrOnly :
    (given (.portWrite 0x04 .bits32 0x200) State.reset).inputs = [.portWrite 0x04 .bits32 0x200] := by decide

theorem witness_PortReadsReturnRegisters :
    ((0x3C, 0) : BitVec 6 × Word) ∈
      [(0x00, State.reset.cmd), (0x18, State.reset.res0), ((0x3C, 0) : BitVec 6 × Word)] ∧
    (given (.portRead 0x3C .bits32) State.reset).inputs = [.portRead 0x3C .bits32] := by decide

theorem witness_PortIgnoresAndRefuses :
    (∀ off ∈ [(0x18 : BitVec 6), 0x3C], off.toNat % 4 = 0 ∧ 0x18 ≤ off.toNat ∧
      (given (.portWrite off .bits32 7) State.reset).inputs = [.portWrite off .bits32 7]) ∧
    (∀ off ∈ [(0x28 : BitVec 6), 0x3C], off.toNat % 4 = 0 ∧ 0x28 ≤ off.toNat ∧
      (given (.portRead off .bits32) State.reset).inputs = [.portRead off .bits32]) ∧
    ∀ x ∈ [((1, .bits32) : BitVec 6 × AccessWidth), (0x3F, .bits32), (0, .bits16), (0, .bits8)],
      ¬(x.2 = .bits32 ∧ x.1.toNat % 4 = 0) ∧
      (given (.portWrite x.1 x.2 7) State.reset).inputs = [.portWrite x.1 x.2 7] ∧
      (given (.portRead x.1 x.2) State.reset).inputs = [.portRead x.1 x.2] := by decide

theorem witness_ArgWritesAreStored :
    ∀ off ∈ [(0x08 : BitVec 6), 0x0C, 0x10, 0x14],
      (given (.portWrite off .bits32 7) State.reset).inputs = [.portWrite off .bits32 7] := by decide

theorem witness_ExpansionRunsCommand :
    [(3 : Word), 1500].length = (argsRead .hsSet).length ∧
    ({ State.reset with inputs := expandCommand .hsSet [3, 1500] } : State).inputs =
      expandCommand .hsSet [3, 1500] ++ [] := by decide

/-- For WordZeroGettersReturnTheirBits, WordOneGettersReturnTheirBits, FrameGettersReturnTheirBits,
FrameSettersStoreTheirBytes, SetFrameDeadlineStoresWordTwo and ContextReadsReturnRegisters: context 3 is the last one, 4
the first absent; context 0 of `holed` has its header on unmapped bytes. -/
theorem witness_HeaderCommands :
    State.reset.cfg.nCtx ≤ (4 : Byte).toNat ∧ holed.Inv = true ∧ (0 : Byte).toNat < holed.cfg.nCtx ∧
    (∀ k ∈ [0, 4, 8, 16], ¬MappedAll holed.cfg (hdrByteAddr holed 0 k) 4) ∧
    State.reset.Inv = true ∧ (3 : Byte).toNat < State.reset.cfg.nCtx ∧
    (∀ k ∈ [0, 4, 8, 16], MappedAll State.reset.cfg (hdrByteAddr State.reset 3 k) 4) := by decide +kernel

/-- For GetWordReturnsHeaderWord and SetWordStoresHeaderWord, at the indices 4 and 5. -/
theorem witness_GetAndSetWord :
    4 < (args 5 0 State.reset).arg0.toNat ∧ (args 4 0 holed).arg0.toNat ≤ 4 ∧
    ¬MappedAll (args 4 0 holed).cfg (hdrByteAddr (args 4 0 holed) 0 (4 * (args 4 0 holed).arg0.toNat)) 4 ∧
    (args 4 0 State.reset).arg0.toNat ≤ 4 ∧
    MappedAll (args 4 0 State.reset).cfg
      (hdrByteAddr (args 4 0 State.reset) 3 (4 * (args 4 0 State.reset).arg0.toNat)) 4 ∧
    (args 4 0 State.reset).Inv = true ∧ (args 4 0 holed).Inv = true := by decide +kernel

theorem witness_SetLengthWritesLength :
    ((owned.ctx 1).own = .owned ∧ (owned.ctx 1).ocap.toNat < (args 9 0 owned).arg0.toNat) ∧
    ((bound.ctx 0).own = .borrowed ∧ 0 < (args 0xFFFFCFED 0 bound).arg0.toNat ∧
      2 ^ 32 < (bound.ctx 0).paddr.toNat + (args 0xFFFFCFED 0 bound).arg0.toNat) ∧
    ¬2 ^ 32 < (bound.ctx 0).paddr.toNat + (args 0xFFFFCFEC 0 bound).arg0.toNat ∧
    (1 : Byte).toNat < owned.cfg.nCtx ∧ bound.cfg.nCtx ≤ (4 : Byte).toNat := by decide +kernel

theorem witness_PackDataClearsFlagOnly :
    (args 0x7FFFFFFF 0 owned).arg0.toNat < 2 ^ 31 ∧ (args 0x7FFFFFFF 0 owned).Inv = true ∧
    (owned.ctx 1).own = .owned ∧ (holed.ctx 0).own = .borrowed ∧ (args 0 0 holed).Inv = true ∧
    ¬MappedAll holed.cfg (hdrByteAddr holed 0 0) 4 ∧ (bound.ctx 0).own = .borrowed ∧
    MappedAll bound.cfg (hdrByteAddr bound 0 0) 4 := by decide +kernel

/-- PACK.R c2 of V25, and PACK.R at the very top of memory. -/
theorem witness_PackControlBuildsPacket :
    ∀ x ∈ [(0x1000, 64), (0xFFFFFFF0, 0x10), (0xFFFFFFFF, 0)],
      ({ State.reset with
          arg0 := 0x90000000, arg2 := BitVec.ofNat 32 x.1, arg3 := BitVec.ofNat 32 x.2 } : State).Inv = true ∧
      2 ^ 31 ≤ (0x90000000 : Word).toNat ∧ (0x90000000 : Word).toNat % 2 ^ 16 = 0 ∧
      (2 : Byte).toNat < State.reset.cfg.nCtx ∧ (State.reset.ctx 2).own = .borrowed ∧
      ¬(0 < (BitVec.ofNat 32 x.2).toNat ∧ 2 ^ 32 < (BitVec.ofNat 32 x.1).toNat + (BitVec.ofNat 32 x.2).toNat) ∧
      MappedAll State.reset.cfg (hdrByteAddr State.reset 2 0) 4 ∧
      MappedAll State.reset.cfg (hdrByteAddr State.reset 2 4) 4 := by decide +kernel

theorem witness_PackControlErrors :
    2 ^ 31 ≤ (0x80000001 : Word).toNat ∧ (0x80000001 : Word).toNat % 2 ^ 16 ≠ 0 ∧
    2 ^ 31 ≤ (0x80000000 : Word).toNat ∧ (0x80000000 : Word).toNat % 2 ^ 16 = 0 ∧ (owned.ctx 1).own = .owned ∧
    (holed.ctx 0).own = .borrowed ∧ (0 < (0x11 : Word).toNat ∧ 2 ^ 32 < (0xFFFFFFF0 : Word).toNat + (0x11 : Word).toNat) ∧
    ¬MappedAll holed.cfg (hdrByteAddr holed 0 0) 4 ∧ (1 : Byte).toNat < owned.cfg.nCtx ∧
    (0 : Byte).toNat < holed.cfg.nCtx := by decide +kernel

theorem witness_BindRecordsDatagram :
    (owned.ctx 1).own = .owned ∧ (bound.ctx 0).own = .borrowed ∧ (19 : Word).toNat < 20 ∧ 20 ≤ (20 : Word).toNat ∧
    2 ^ 32 < (0xFFFFFFED : Word).toNat + (20 : Word).toNat ∧
    (0xFFFFFFEC : Word).toNat + (20 : Word).toNat ≤ 2 ^ 32 ∧ (0 : Byte).toNat < bound.cfg.nCtx := by decide +kernel

theorem witness_SetPayloadRecordsRegion :
    (owned.ctx 1).own = .owned ∧ (bound.ctx 0).own = .borrowed ∧
    (0 < (2 : Word).toNat ∧ 2 ^ 32 < (0xFFFFFFFF : Word).toNat + (2 : Word).toNat) ∧
    (0xFFFFFFFF : Word).toNat + (1 : Word).toNat ≤ 2 ^ 32 := by decide +kernel

theorem witness_ReleaseReturnsContextToReset :
    owned.Inv = true ∧ (1 : Byte).toNat < owned.cfg.nCtx ∧ (owned.ctx 1).own = .owned ∧
    bound.Inv = true ∧ (bound.ctx 0).own = .borrowed ∧ owned.cfg.nCtx ≤ (4 : Byte).toNat := by decide +kernel

theorem witness_allocContract : AllocContract bound 8 0x00100000 := by decide +kernel

/-- Answers that break the contract: one over the source's datagram, one past 2^32. -/
theorem witness_allocContract_broken :
    ¬AllocContract bound 8 (0x3010 : Word).toNat ∧ ¬AllocContract bound 8 (0xFFFFFFF9 : Word).toNat := by
  decide +kernel

theorem witness_CloneCopiesHeaderAndPayload :
    bound.Inv = true ∧ (1 : Byte).toNat < bound.cfg.nCtx ∧ (0 : Byte).toNat < bound.cfg.nCtx ∧ (0 : Byte) ≠ 1 ∧
    (bound.ctx 1).own = .borrowed ∧ MappedAll bound.cfg (bound.ctx 0).hbase.toNat 20 ∧
    MappedAll bound.cfg (bound.ctx 0).paddr.toNat (bound.ctx 0).plen.toNat ∧
    bound.allocAnswers = [some 0x00100000] ∧ (bound.ctx 0).plen.toNat = 8 := by decide +kernel

theorem witness_CloneErrors :
    bound.cfg.nCtx ≤ (4 : Byte).toNat ∧ (owned.ctx 1).own = .owned ∧ (holed.ctx 1).own = .borrowed ∧
    ¬(MappedAll holed.cfg (holed.ctx 0).hbase.toNat 20 ∧
      MappedAll holed.cfg (holed.ctx 0).paddr.toNat (holed.ctx 0).plen.toNat) ∧
    ({ bound with allocAnswers := [none] } : State).allocAnswers = [none] := by decide +kernel

theorem witness_CloneCompletesOnFreeDraw :
    ({ bound with allocAnswers := [] } : State).Inv = true ∧ (0 : Byte) ≠ 1 ∧ (bound.ctx 1).own = .borrowed ∧
    MappedAll bound.cfg (bound.ctx 0).hbase.toNat 20 ∧
    MappedAll bound.cfg (bound.ctx 0).paddr.toNat (bound.ctx 0).plen.toNat ∧
    (1 : Byte).toNat < bound.cfg.nCtx := by decide +kernel

theorem witness_FrameMaskingLaw :
    bound.Inv = true ∧ (0 : Byte).toNat < bound.cfg.nCtx ∧
    (∀ k < 20, reservedByte bound.cfg (hdrByteAddr bound 0 k) = false) ∧
    MappedAll bound.cfg (hdrByteAddr bound 0 0) 20 := by decide +kernel

theorem witness_FrameFieldsAreIndependent :
    bound.Inv = true ∧
    ∀ i ∈ [Instr.setFrameId 0, .setChunkId 0, .setTotalChunks 0, .setFrameDeadline 0],
      exec i bound = .next (after i bound) ∧ (after i bound).err = 0 := by
  refine ⟨by decide +kernel, fun i hi => ?_⟩
  simp only [List.mem_cons, List.not_mem_nil, or_false] at hi
  rcases hi with rfl | rfl | rfl | rfl <;> exact ⟨eq_result (by decide +kernel), by decide +kernel⟩

theorem witness_DeadlineAndTimestampShareWordTwo :
    (args 2 0 bound).arg0 = 2 ∧
    exec (.setWord 0) (args 2 100 bound) = .next (after (.setWord 0) (args 2 100 bound)) ∧
    exec (.setFrameDeadline 0) (args 100 0 bound) = .next (after (.setFrameDeadline 0) (args 100 0 bound)) :=
  ⟨by decide +kernel, eq_result (by decide +kernel), eq_result (by decide +kernel)⟩

theorem witness_HandshakeFieldCommands :
    11 < (args 12 0 sealedRecord).arg0.toNat ∧ (args 11 0 sealedRecord).arg0.toNat ≤ 11 ∧
    sealedRecord.sealed = true ∧ State.reset.sealed = false := by decide +kernel

/-- For SerializeWritesRecord and DeserializeReadsRecord: a buffer one byte short, one byte past the top, unmapped, and the topmost. -/
theorem witness_SerializeAndDeserialize :
    (args 0 47 State.reset).Inv = true ∧ (47 : Word).toNat < 48 ∧ 48 ≤ (48 : Word).toNat ∧
    2 ^ 32 < (0xFFFFFFD1 : Word).toNat + 48 ∧ (0xFFFFFFD0 : Word).toNat + 48 ≤ 2 ^ 32 ∧
    ¬MappedAll holed.cfg (0x5000 : Word).toNat 48 ∧ MappedAll State.reset.cfg (0xFFFFFFD0 : Word).toNat 48 ∧
    sealedRecord.sealed = true ∧ State.reset.sealed = false := by decide +kernel

theorem witness_HandshakeRoundTrip :
    sealedRecord.Inv = true ∧ (0x4000 : Word).toNat + 48 ≤ 2 ^ 32 ∧
    MappedAll sealedRecord.cfg (0x4000 : Word).toNat 48 ∧
    (∀ k < 48, reservedByte sealedRecord.cfg ((0x4000 : Word).toNat + k) = false) ∧ 48 ≤ (64 : Word).toNat ∧
    48 ≤ (48 : Word).toNat := by decide +kernel

theorem witness_ShortDeserializeFails : (args 0x4000 47 sealedRecord).arg1.toNat < 48 := by decide +kernel

theorem witness_StepKeepsInvariant :
    (given (.portWrite 0 .bits32 0x00000114) bound).Inv = true ∧
    step (given (.portWrite 0 .bits32 0x00000114) bound) =
      .next (result (step (given (.portWrite 0 .bits32 0x00000114) bound))) :=
  ⟨by decide +kernel, eq_result (by decide +kernel)⟩

/-- For ResetMeetsInvariant and ResetValuesAsListed. -/
theorem witness_ResetUnderEveryConfig : Config.wellFormed ⟨256, 0xFFFFE000, 0, [(0x5000, 0x1000)]⟩ = true ∧
    Config.wellFormed ⟨2, 0, 0, []⟩ = true := by decide +kernel

/-- For CommandsKeepContextInvariants, FailingCommandChangesOnlyStatus, CommandsWriteOnlyListedResults,
CommandsDoNotReadStatus, CommandsStoreOnlyToTheirRegions and AllocatorCallsAsListed: a command that finishes, and two
that end with an error, CLONE answered Fail and an absent context. -/
theorem witness_WholeMachine :
    (exec (.setFrameId 0) bound = .next (after (.setFrameId 0) bound) ∧ (after (.setFrameId 0) bound).err = 0) ∧
    (exec (.clone 1 0) { bound with allocAnswers := [none] } =
        .next (after (.clone 1 0) { bound with allocAnswers := [none] }) ∧
      (after (.clone 1 0) { bound with allocAnswers := [none] }).err = 0x0B) ∧
    exec (.getFlag 4) bound = .next (after (.getFlag 4) bound) ∧ (after (.getFlag 4) bound).err = 0x02 ∧
    bound.Inv = true :=
  ⟨⟨eq_result (by decide +kernel), by decide +kernel⟩, ⟨eq_result (by decide +kernel), by decide +kernel⟩,
    eq_result (by decide +kernel), by decide +kernel, by decide +kernel⟩

theorem witness_CommandsReadOnlyListedArgs :
    (1 : Fin 4) ∉ argsRead (.pack 0 false true) ∧ (3 : Fin 4) ∉ argsRead .hsDeserialize ∧
    exec (.pack 0 false true) bound = .next (after (.pack 0 false true) bound) :=
  ⟨by decide, by decide, eq_result (by decide +kernel)⟩

/-- The byte just below and the byte just above the word that SET_FRAMEID writes back. -/
theorem witness_CommandsStoreOnlyToTheirRegions :
    exec (.setFrameId 0) bound = .next (after (.setFrameId 0) bound) ∧
    ∀ x ∈ [0x300F, 0x3014],
      ∀ r ∈ storeRegions bound (after (.setFrameId 0) bound) (.setFrameId 0), ¬(r.1 ≤ x ∧ x < r.1 + r.2) :=
  ⟨eq_result (by decide +kernel), by decide +kernel⟩

/-- OWN changes by a CLONE, by a racing CLONE, by a RELEASE and by the reset event. -/
theorem witness_OwnershipChangesOnlyByCloneReleaseReset :
    ∀ x ∈ [(given (.portWrite 0 .bits32 0x00000114) bound, Ownership.owned),
        (given (.cmdRaced 0x00000114 []) bound, .owned),
        (given (.portWrite 0 .bits32 0x00000117) owned, .borrowed), (given .platformReset owned, .borrowed)],
      x.1.Inv = true ∧ step x.1 = .next (result (step x.1)) ∧ ((result (step x.1)).ctx 1).own = x.2 ∧
        (x.1.ctx 1).own ≠ x.2 := by
  intro x hx
  simp only [List.mem_cons, List.not_mem_nil, or_false] at hx
  rcases hx with rfl | rfl | rfl | rfl <;>
    exact ⟨by decide +kernel, eq_result (by decide +kernel), by decide +kernel, by decide +kernel⟩

theorem witness_SealedChangesAsListed :
    exec .hsSerialize (args 0x4000 48 State.reset) = .next (after .hsSerialize (args 0x4000 48 State.reset)) ∧
    (after .hsSerialize (args 0x4000 48 State.reset)).sealed = true ∧ State.reset.sealed = false ∧
    exec .hsNew sealedRecord = .next (after .hsNew sealedRecord) ∧ (after .hsNew sealedRecord).sealed = false ∧
    sealedRecord.sealed = true ∧ (after .hsNew sealedRecord).hs ≠ sealedRecord.hs :=
  ⟨eq_result (by decide +kernel), by decide +kernel, by decide, eq_result (by decide +kernel), by decide +kernel,
    by decide, by decide +kernel⟩

theorem witness_RegionChecksAreByteWise : 0 < 1 ∧ mappedRegion holed.cfg (0x5FFF, 1) = false ∧
    mappedRegion holed.cfg (0x6000, 1) = true ∧ mappedRegion holed.cfg (0x4FFF, 1) = true := by decide +kernel

/-- An input of each kind, at boundary values; the answers of witness_allocContract_broken are the refused ones. -/
theorem witness_DefinedInputsComplete :
    ∀ x ∈ [Input.portWrite 0x3C .bits32 7, .portRead 0x00 .bits32, .memWrite8 0xFFFFFFFF 1,
        .memWrite32 0xFFFFFFFC 1, .memRead32 0x4FFC, .cmdRaced 0x00000021 [(0x6000, 1)], .platformReset, .reclaim],
      inputDefined (given x holed) x = true := by decide +kernel

theorem witness_AnyErrIsSticky :
    ∀ x ∈ [Input.platformReset, .portWrite 0x04 .bits32 0x200],
      step (given x { owned with anyErr := true }) = .next (result (step (given x { owned with anyErr := true }))) ∧
      (given x { owned with anyErr := true }).anyErr = true ∧
      (result (step (given x { owned with anyErr := true }))).anyErr = false := by
  intro x hx
  simp only [List.mem_cons, List.not_mem_nil, or_false] at hx
  rcases hx with rfl | rfl <;> exact ⟨eq_result (by decide +kernel), by decide +kernel, by decide +kernel⟩

theorem witness_PlatformResetRestoresBlock :
    (given .platformReset owned).Inv = true ∧ (given .platformReset owned).inputs = [.platformReset] := by
  decide +kernel

/-- SET_FRAMEID races with a store to one byte that it writes and to one that it does not. -/
theorem witness_RaceOutcomesAreBounded :
    bound.Inv = true ∧
    (given (.cmdRaced 0x00000021 [(0x3010, 0xAA)]) bound).inputs = [.cmdRaced 0x00000021 [(0x3010, 0xAA)]] ∧
    MappedAt bound.cfg (0x3010 : Word).toNat ∧
    raceWith (fun j => j) 0x00000021 [(0x3010, 0xAA), (0x3014, 0xBB)] bound =
      .next (result (raceWith (fun j => j) 0x00000021 [(0x3010, 0xAA), (0x3014, 0xBB)] bound)) :=
  ⟨by decide +kernel, by decide +kernel, by decide +kernel, eq_result (by decide +kernel)⟩

/-- Two values race at one address: one is read, the other is left; or SET_FRAMEID, which stores there, leaves its own. -/
theorem witness_RaceAdmitsEveryOutcome :
    bound.Inv = true ∧
    ∀ x ∈ [((0x3010, 0xAA) : Word × Byte), (0x3010, 0xBB)],
      (fun _ => 0xAA : Nat → Byte) x.1.toNat ∈ racedValues [(0x3010, 0xAA), (0x3010, 0xBB)] x.1.toNat ∧
      (fun _ => 0xBB : Nat → Byte) x.1.toNat ∈ racedValues [(0x3010, 0xAA), (0x3010, 0xBB)] x.1.toNat ∧
      reservedByte bound.cfg x.1.toNat = false ∧
      issueReading (racePayload (fun _ => 0) [(0x3010, 0xAA), (0x3010, 0xBB)] bound) 0x00000021
          (raceView (fun _ => 0) [(0x3010, 0xAA), (0x3010, 0xBB)] bound) =
        .next (result (issue 0x00000021 { bound with draws := 1 })) ∧
      commandStores 0x00000021 (raceView (fun _ => 0) [(0x3010, 0xAA), (0x3010, 0xBB)] bound)
        (result (issue 0x00000021 { bound with draws := 1 })) x.1.toNat = true := by
  refine ⟨by decide +kernel, fun x hx => ?_⟩
  simp only [List.mem_cons, List.not_mem_nil, or_false] at hx
  rcases hx with rfl | rfl <;>
    refine ⟨by decide +kernel, by decide +kernel, by decide +kernel, ?_, by decide +kernel⟩ <;>
    exact (eq_result (by decide +kernel)).trans (congrArg Host.Outcome.next (by decide +kernel))

theorem witness_AgentAccessesReadAndStore :
    holed.Inv = true ∧ MappedAt holed.cfg (0x4FFF : Word).toNat ∧ ¬MappedAt holed.cfg (0x5000 : Word).toNat ∧
    MappedAll holed.cfg (0x4FFC : Word).toNat 4 ∧ ¬MappedAll holed.cfg (0x4FFD : Word).toNat 4 ∧
    MappedAll holed.cfg (0xFFFFFFFC : Word).toNat 4 ∧ ¬MappedAll holed.cfg (0xFFFFFFFD : Word).toNat 4 ∧
    (given (.memWrite32 0x4FFC 7) holed).inputs = [.memWrite32 0x4FFC 7] := by decide +kernel

theorem witness_WindowBytesAsListed :
    ∀ k ∈ [0, 19, 20, 31],
      (given (.memWrite8 (BitVec.ofNat 32 (State.reset.cfg.winBase + 32 * 3 + k)) 0x55) State.reset).Inv = true ∧
      3 < State.reset.cfg.nCtx ∧ k < 32 := by decide +kernel

/-- Each change of situation that 41_packet.md R168 lists happens, and BIND over a context's own window. -/
theorem witness_ContextLifecycle :
    situation bound 1 = .ownPacket ∧ situation (after (.bind 1) (args 0x2000 84 bound)) 1 = .bound ∧
    situation (after (.bind 1) (args 0x80020 20 bound)) 1 = .ownPacket ∧
    situation (after (.clone 1 0) bound) 1 = .ownedClone ∧ situation (after (.release 1) owned) 1 = .ownPacket ∧
    (args 0x2000 84 bound).Inv = true ∧
    exec (.bind 1) (args 0x2000 84 bound) = .next (after (.bind 1) (args 0x2000 84 bound)) :=
  ⟨by decide +kernel, by decide +kernel, by decide +kernel, by decide +kernel, by decide +kernel, by decide +kernel,
    eq_result (by decide +kernel)⟩

/-- The clone of P2: the source, at 0x3000, does not lie over the destination's window, and commands on both complete. -/
theorem witness_CloneIsIndependent :
    bound.Inv = true ∧ exec (.clone 1 0) bound = .next (after (.clone 1 0) bound) ∧
    (after (.clone 1 0) bound).err = 0 ∧
    overlaps (winAddr bound.cfg 1, 20) (((after (.clone 1 0) bound).ctx 0).hbase.toNat, 20) = false ∧
    overlaps (winAddr bound.cfg 1, 20)
      (((after (.clone 1 0) bound).ctx 0).paddr.toNat, ((after (.clone 1 0) bound).ctx 0).plen.toNat) = false ∧
    (∀ x ∈ [(Instr.setChunkId 1, 1), (.release 1, 1), (.setChunkId 0, 0), (.pack 0 false false, 0), (.release 0, 0)],
      x.1.fields.usesCtx = true ∧ x.1.fields.ctx = x.2 ∧
      (after x.1 (args 9 0 (after (.clone 1 0) bound))).err = 0 ∧
        isNext (exec x.1 (args 9 0 (after (.clone 1 0) bound))) = true) ∧
    inRegion (((after (.clone 1 0) bound).ctx 0).hbase.toNat, 20) 0x3012 = true ∧
    inRegion (((after (.clone 1 0) bound).ctx 1).hbase.toNat, 20) 0x80032 = true :=
  ⟨by decide +kernel, eq_result (by decide +kernel), by decide +kernel, by decide +kernel, by decide +kernel,
    by decide +kernel, by decide +kernel, by decide +kernel⟩

end Sys2Proof.Tests
end

/-! # Proofs: the state family (10_state.md)

First the layer every proof of this family goes through: what a command checks and what it finishes in, one
inversion lemma for a command (`execReading_ends`) and one for an input (`takeInput_takes`). -/

namespace Sys2Proof.Machine

/-! ## What a command checks, and what it finishes in -/

/-- The checks of a command, in the order of its rule; for CLONE those that precede the Alloc request. -/
def commandChecks (s : State) : Instr → List (Bool × ErrCode)
  | .getFlag c | .getType c | .getExtType c | .getSeqNo c => [noCtx s c, noHdr s c 0]
  | .getAckSeqNo c | .getMsgBoundary c | .getMsgOrderFlag c | .getMsgSeq c => [noCtx s c, noHdr s c 1]
  | .getWord c | .setWord c => [noCtx s c, badIndex s.arg0 4, noHdr s c s.arg0.toNat]
  | .getLength c | .getPacketVector c | .getCtxState c | .release c => [noCtx s c]
  | .setLength c => [noCtx s c, badLength (s.ctx c.toNat) s.arg0]
  | .pack c lp rp =>
    [noCtx s c,
      (isControl s.arg0 && slice s.arg0 15 0 != 0, .arg),
      (isControl s.arg0 && lp && rp, .arg),
      isOwned s c,
      (isControl s.arg0 && rp && pastTop s.arg2 s.arg3.toNat, .range),
      noHdr s c 0,
      (isControl s.arg0 && lp && (noHdr s c 1).1, .bus)]
  | .clone dst src => cloneChecks dst src s
  | .bind c => [noCtx s c, isOwned s c, (s.arg1.toNat < hdrSize, .short), badRange s.arg0 s.arg1.toNat]
  | .setPayload c => [noCtx s c, isOwned s c, badRange s.arg0 s.arg1.toNat]
  | .getFrameId c | .setFrameId c | .getChunkId c | .setChunkId c | .getTotalChunks c | .setTotalChunks c =>
    [noCtx s c, noHdr s c 4]
  | .getFrameDeadline c | .setFrameDeadline c => [noCtx s c, noHdr s c 2]
  | .hsNew => []
  | .hsGet => [badIndex s.arg0 11]
  | .hsSet => [badIndex s.arg0 11, isSealed s]
  | .hsSerialize =>
    [(s.arg1.toNat < hsSize, .hsCap), badRange s.arg0 hsSize, unmapped s s.arg0.toNat hsSize]
  | .hsDeserialize =>
    [isSealed s, (s.arg1.toNat < hsSize, .hsSize), badRange s.arg0 hsSize, unmapped s s.arg0.toNat hsSize]

/-- What a getter of bits hi..lo of header word w leaves in RES0. -/
def withHdrField (s : State) (c : Byte) (w hi lo : Nat) : State :=
  { s with res0 := slice (s.hdr c.toNat w) hi lo }

/-- What a setter of bits hi..lo of header word w stores. -/
def withHdrFieldSet (s : State) (c : Byte) (w hi lo : Nat) (v : Word) : State :=
  s.setHdr c.toNat w (replaceSlice (s.hdr c.toNat w) hi lo v)

/-- The state a command whose checks pass ends in, but for ERR; CLONE, which first asks the allocator, has its own
(`cloned`) and stands here as no change. -/
def commandDone (s : State) : Instr → State
  | .getFlag c => withHdrField s c 0 31 31
  | .getType c => withHdrField s c 0 30 28
  | .getExtType c => withHdrField s c 0 27 16
  | .getSeqNo c => withHdrField s c 0 30 0
  | .getAckSeqNo c => withHdrField s c 1 31 0
  | .getMsgBoundary c => withHdrField s c 1 31 30
  | .getMsgOrderFlag c => withHdrField s c 1 29 29
  | .getMsgSeq c => withHdrField s c 1 28 0
  | .getWord c => { s with res0 := s.hdr c.toNat s.arg0.toNat }
  | .setWord c => s.setHdr c.toNat s.arg0.toNat s.arg1
  | .getLength c => { s with res0 := (s.ctx c.toNat).plen }
  | .setLength c => s.setCtx c.toNat { s.ctx c.toNat with plen := s.arg0 }
  | .pack c lp rp => if isControl s.arg0 then packedControl c.toNat lp rp s else packedData c.toNat s
  | .getPacketVector c =>
    { s with res0 := (s.ctx c.toNat).hbase, res1 := BitVec.ofNat 32 hdrSize,
             res2 := (s.ctx c.toNat).paddr, res3 := (s.ctx c.toNat).plen }
  | .clone _ _ => s
  | .bind c =>
    s.setCtx c.toNat
      { s.ctx c.toNat with
        hbase := s.arg0
        paddr := BitVec.ofNat 32 (s.arg0.toNat + hdrSize)
        plen := BitVec.ofNat 32 (s.arg1.toNat - hdrSize) }
  | .setPayload c => s.setCtx c.toNat { s.ctx c.toNat with paddr := s.arg0, plen := s.arg1 }
  | .release c => released c.toNat s
  | .getCtxState c => { s with res0 := ownWord (s.ctx c.toNat).own, res1 := (s.ctx c.toNat).ocap }
  | .getFrameId c => withHdrField s c 4 31 16
  | .setFrameId c => withHdrFieldSet s c 4 31 16 s.arg0
  | .getChunkId c => withHdrField s c 4 15 8
  | .setChunkId c => withHdrFieldSet s c 4 15 8 s.arg0
  | .getTotalChunks c => withHdrField s c 4 7 0
  | .setTotalChunks c => withHdrFieldSet s c 4 7 0 s.arg0
  | .getFrameDeadline c => withHdrField s c 2 31 0
  | .setFrameDeadline c => s.setHdr c.toNat 2 s.arg0
  | .hsNew => { s with hs := .zero, sealed := false }
  | .hsGet => { s with res0 := s.hs.get s.arg0.toNat }
  | .hsSet => { s with hs := s.hs.set s.arg0.toNat s.arg1 }
  | .hsSerialize =>
    { s.writeBytes s.arg0.toNat s.hs.bytes with sealed := true, res0 := BitVec.ofNat 32 hsSize }
  | .hsDeserialize =>
    { s with hs := .ofWords (s.wordsAt s.arg0.toNat 12), res0 := BitVec.ofNat 32 hsSize }

/-- The two tables are the model: every command but CLONE is its checks and the state it finishes in. -/
theorem exec_eq_complete (s : State) (i : Instr) (hi : ∀ dst src, i ≠ .clone dst src) :
    exec i s = complete s (commandChecks s i) (commandDone s i) := by
  cases i with
  | clone dst src => exact absurd rfl (hi dst src)
  | _ => rfl

/-! ## How a command ends -/

/-- The state after the answer Ok(a) to Alloc(n): the buffer is live (20_memory.md R70 (d)). -/
def State.granted (s : State) (owner : Nat) (n a : Word) (answers : List (Option Word)) (draws : Nat) : State :=
  { s with
    allocAnswers := answers, draws := draws, live := ⟨owner, a, n⟩ :: s.live,
    allocTrace := .alloc n (some a) :: s.allocTrace }

/-- All the ways a command can end, its second reads made in p: with the error of its first failed check; finished; and
for CLONE, whose checks passed, by the allocator's answer. -/
inductive Ends (p s : State) : Instr → State → Prop
  | failed {i : Instr} (e : ErrCode) (hcheck : firstError (commandChecks s i) = some e) :
    Ends p s i (s.failed e.code)
  | finished {i : Instr} (hi : ∀ dst src, i ≠ .clone dst src)
      (hpass : firstError (commandChecks s i) = none) :
    Ends p s i { commandDone s i with err := okCode }
  | allocFailed {dst src : Byte} (answers : List (Option Word)) (draws : Nat)
      (hpass : firstError (commandChecks s (.clone dst src)) = none) :
    Ends p s (.clone dst src)
      (State.failed
        { s with
          allocAnswers := answers, draws := draws,
          allocTrace := .alloc (s.ctx src.toNat).plen none :: s.allocTrace } ErrCode.alloc.code)
  | cloned {dst src : Byte} (a : Word) (answers : List (Option Word)) (draws : Nat)
      (hpass : firstError (commandChecks s (.clone dst src)) = none)
      (hok : allocOk s (s.ctx src.toNat).plen a = true) :
    Ends p s (.clone dst src)
      { Machine.cloned dst.toNat src.toNat a p s
          (s.granted dst.toNat (s.ctx src.toNat).plen a answers draws) with
        err := okCode }

theorem cloneReading_ends {p s t : State} {dst src : Byte} (h : cloneReading dst src p s = .next t) :
    Ends p s (.clone dst src) t := by
  unfold cloneReading at h
  split at h
  case h_1 e he =>
    obtain rfl : s.failed e.code = t := by simpa [raise] using h
    exact .failed e he
  case h_2 hpass =>
    rcases requestAlloc_cases s dst.toNat (s.ctx src.toNat).plen with
      ⟨a, rest, _, _, hr⟩ | ⟨answers, draws, hr⟩ | ⟨a, answers, draws, hok, hr⟩
    · simp [hr] at h
    · simp only [hr, raise, Host.Outcome.next.injEq] at h
      exact h ▸ .allocFailed answers draws hpass
    · simp only [hr, finish, Host.Outcome.next.injEq] at h
      exact h ▸ .cloned a answers draws hpass hok

/-- The inversion lemma of a command. -/
theorem execReading_ends {p s t : State} {i : Instr} (h : execReading p i s = .next t) : Ends p s i t := by
  by_cases hi : ∃ dst src, i = .clone dst src
  · obtain ⟨dst, src, rfl⟩ := hi
    exact cloneReading_ends h
  · have hi' : ∀ dst src, i ≠ .clone dst src := fun dst src e => hi ⟨dst, src, e⟩
    have he : execReading p i s = exec i s := by
      cases i with
      | clone dst src => exact absurd rfl (hi' dst src)
      | _ => rfl
    rw [he, exec_eq_complete s i hi'] at h
    rcases complete_cases h with ⟨e, hcheck, rfl⟩ | ⟨hpass, rfl⟩
    · exact .failed e hcheck
    · exact .finished hi' hpass

theorem exec_ends {s t : State} {i : Instr} (h : exec i s = .next t) : Ends s s i t :=
  execReading_ends (by rwa [execReading_same fun _ => rfl])

/-! ## The frame of a command that finishes -/

/-- RELEASE, written as one update (41_packet.md R166). -/
theorem released_eq (c : Nat) (s : State) :
    released c s =
      { s with
        mem := storeBytes s.cfg s.mem (winAddr s.cfg c) (List.replicate hdrSize 0)
        ctxs := s.ctxs.set c (Ctx.fresh s.cfg c)
        live := if (s.ctx c).own = .owned then s.live.erase ⟨c, (s.ctx c).paddr, (s.ctx c).ocap⟩ else s.live
        allocTrace := if (s.ctx c).own = .owned then .free (s.ctx c).paddr :: s.allocTrace else s.allocTrace } := by
  cases h : (s.ctx c).own <;> simp [released, h] <;> rfl

/-- A control PACK, written as one update (41_packet.md R161). -/
theorem packedControl_eq (c : Nat) (lp rp : Bool) (s : State) :
    packedControl c lp rp s =
      { s with
        mem := if lp then ((s.setHdr c 0 (controlWord s.arg0)).setHdr c 1 s.arg1).mem
          else (s.setHdr c 0 (controlWord s.arg0)).mem
        ctxs := s.ctxs.set c
          { s.ctx c with
            paddr := if lp then 0 else if rp then s.arg2 else 0
            plen := if lp then 0 else if rp then s.arg3 else 0 } } := by
  cases lp <;> cases rp <;> rfl

/-- The fields that no command finishes with a change of: the parameters, what the host writes, ANYERR, and the streams
of the other agents. -/
structure SameHostSide (s t : State) : Prop where
  cfg : t.cfg = s.cfg
  cmd : t.cmd = s.cmd
  anyErr : t.anyErr = s.anyErr
  arg0 : t.arg0 = s.arg0
  arg1 : t.arg1 = s.arg1
  arg2 : t.arg2 = s.arg2
  arg3 : t.arg3 = s.arg3
  allocAnswers : t.allocAnswers = s.allocAnswers
  inputs : t.inputs = s.inputs
  draws : t.draws = s.draws
  hostReads : t.hostReads = s.hostReads

theorem sameHostSide_res (s : State) (v0 v1 v2 v3 : Word) :
    SameHostSide s { s with res0 := v0, res1 := v1, res2 := v2, res3 := v3 } := by
  constructor <;> rfl

theorem commandDone_sameHostSide (s : State) (i : Instr) : SameHostSide s (commandDone s i) := by
  cases i with
  | pack c lp rp =>
    by_cases hf : isControl s.arg0
    · simp only [commandDone, hf, if_true, packedControl_eq]
      constructor <;> rfl
    · simp only [commandDone, hf]
      constructor <;> rfl
  | release c =>
    simp only [commandDone, released_eq]
    constructor <;> rfl
  | setWord | setLength | clone | bind | setPayload | setFrameId | setChunkId | setTotalChunks | setFrameDeadline
  | hsNew | hsSet | hsSerialize | hsDeserialize => constructor <;> rfl
  | _ => exact sameHostSide_res s _ _ _ _

@[simp] theorem commandDone_cfg (s : State) (i : Instr) : (commandDone s i).cfg = s.cfg :=
  (commandDone_sameHostSide s i).cfg

@[simp] theorem commandDone_anyErr (s : State) (i : Instr) : (commandDone s i).anyErr = s.anyErr :=
  (commandDone_sameHostSide s i).anyErr

end Sys2Proof.Machine

namespace Sys2Proof.Machine

/-! ## What a passed check says -/

@[simp] theorem noCtx_passed (s : State) (c : Byte) : (noCtx s c).1 = false ↔ c.toNat < s.cfg.nCtx := by
  simp [noCtx]

@[simp] theorem badIndex_passed (k : Word) (bound : Nat) : (badIndex k bound).1 = false ↔ k.toNat ≤ bound := by
  simp [badIndex]

@[simp] theorem isOwned_passed (s : State) (c : Byte) :
    (isOwned s c).1 = false ↔ (s.ctx c.toNat).own = .borrowed := by
  cases h : (s.ctx c.toNat).own <;> simp [isOwned, h]

theorem pastTop_eq_false (a : Word) (n : Nat) : pastTop a n = false ↔ n = 0 ∨ a.toNat + n ≤ 2 ^ 32 := by
  simp only [pastTop, Bool.and_eq_false_iff, decide_eq_false_iff_not]
  omega

@[simp] theorem badRange_passed (a : Word) (n : Nat) :
    (badRange a n).1 = false ↔ n = 0 ∨ a.toNat + n ≤ 2 ^ 32 :=
  pastTop_eq_false a n

theorem badLength_passed (x : Ctx) (n : Word) :
    (badLength x n).1 = false ↔
      (x.own = .owned → n.toNat ≤ x.ocap.toNat) ∧
      (x.own = .borrowed → n.toNat = 0 ∨ x.paddr.toNat + n.toNat ≤ 2 ^ 32) := by
  cases h : x.own <;> simp [badLength, h, pastTop_eq_false]

/-! ## The invariant, clause by clause -/

/-- The memory's part of the invariant: canonical form, no reserved window byte listed (20_memory.md R67). -/
structure MemHolds (cfg : Config) (m : Memory) : Prop where
  canonical : m.wf = true
  noReserved : ∀ x ∈ m, reservedByte cfg x.1 = false

/-- 10_state.md R43 (a) to (d) for the registers x of context c. -/
structure CtxHolds (cfg : Config) (live : List Allocation) (c : Nat) (x : Ctx) : Prop where
  payload : x.plen.toNat = 0 ∨ x.paddr.toNat + x.plen.toNat ≤ 2 ^ 32
  header : x.hbase.toNat + 20 ≤ 2 ^ 32
  owned : x.own = .owned →
    x.hbase.toNat = winAddr cfg c ∧ x.plen.toNat ≤ x.ocap.toNat ∧ ⟨c, x.paddr, x.ocap⟩ ∈ live
  borrowed : x.own = .borrowed → x.ocap = 0

/-- State.Inv as a proposition with named clauses. -/
structure Invariant (s : State) : Prop where
  cfg : s.cfg.wellFormed = true
  count : s.ctxs.length = s.cfg.nCtx
  ctx : ∀ c < s.cfg.nCtx, CtxHolds s.cfg s.live c (s.ctx c)
  live : ∀ l ∈ s.live, l.base.toNat + l.size.toNat ≤ 2 ^ 32
  mem : MemHolds s.cfg s.mem
  err : s.err.toNat ≤ 0x0B

theorem ctxInv_iff (s : State) (c : Nat) : ctxInv s c = true ↔ CtxHolds s.cfg s.live c (s.ctx c) := by
  have hplen : (s.ctx c).plen = 0 ↔ (s.ctx c).plen.toNat = 0 := BitVec.toNat_inj.symm
  constructor
  · intro h
    simp only [ctxInv, Ctx.payloadFits, Ctx.headerFits, ownedHolds, Ctx.borrowedEmpty, Bool.and_eq_true,
      Bool.or_eq_true, beq_iff_eq, decide_eq_true_eq, List.contains_iff_mem] at h
    obtain ⟨⟨⟨hpay, hhdr⟩, hown⟩, hbor⟩ := h
    exact ⟨by rwa [← hplen], hhdr, fun ho => by simpa [ho, and_assoc] using hown, fun hb => by simpa [hb] using hbor⟩
  · rintro ⟨hpay, hhdr, hown, hbor⟩
    rw [← hplen] at hpay
    cases ho : (s.ctx c).own <;>
      simp_all [ctxInv, Ctx.payloadFits, Ctx.headerFits, ownedHolds, Ctx.borrowedEmpty]

theorem inv_iff (s : State) : s.Inv = true ↔ Invariant s := by
  constructor
  · intro h
    simp only [State.Inv, noReservedListed, Allocation.fits, Bool.and_eq_true, beq_iff_eq, decide_eq_true_eq,
      List.all_eq_true, List.mem_range, ctxInv_iff, Bool.not_eq_true'] at h
    obtain ⟨⟨⟨⟨⟨⟨hcfg, hcount⟩, hctx⟩, hlive⟩, hwf⟩, hres⟩, herr⟩ := h
    exact ⟨hcfg, hcount, hctx, hlive, ⟨hwf, hres⟩, herr⟩
  · rintro ⟨hcfg, hcount, hctx, hlive, ⟨hwf, hres⟩, herr⟩
    simp only [State.Inv, noReservedListed, Allocation.fits, Bool.and_eq_true, beq_iff_eq, decide_eq_true_eq,
      List.all_eq_true, List.mem_range, ctxInv_iff, Bool.not_eq_true']
    exact ⟨⟨⟨⟨⟨⟨hcfg, hcount⟩, hctx⟩, hlive⟩, hwf⟩, hres⟩, herr⟩

/-! ## What keeps the memory's part -/

theorem MemHolds.nil (cfg : Config) : MemHolds cfg [] := ⟨rfl, by simp⟩

theorem MemHolds.storeByte {cfg : Config} {m : Memory} (h : MemHolds cfg m) {a : Nat} (b : Byte) (ha : a < 2 ^ 32) :
    MemHolds cfg (storeByte cfg m a b) :=
  ⟨storeByte_wf cfg b ha h.canonical, storeByte_noReserved cfg b h.noReserved⟩

theorem MemHolds.storeBytes {cfg : Config} {m : Memory} (h : MemHolds cfg m) {a : Nat} (bs : List Byte)
    (ha : a + bs.length ≤ 2 ^ 32) : MemHolds cfg (storeBytes cfg m a bs) :=
  ⟨storeBytes_wf cfg bs ha h.canonical, storeBytes_noReserved cfg bs h.noReserved⟩

theorem racedView_memHolds (pick : Nat → Nat) (old : State) (stores : List (Word × Byte)) :
    ∀ (todo : List (Word × Byte)) (j : Nat) (m : Memory), MemHolds old.cfg m →
      MemHolds old.cfg (racedView pick old stores todo j m)
  | [], _, _, h => h
  | (a, _) :: rest, j, _, h => racedView_memHolds pick old stores rest (j + 1) _ (h.storeByte _ a.isLt)

theorem racedEnd_memHolds (pick : Nat → Nat) (w : Word) (view t : State) (stores : List (Word × Byte)) :
    ∀ (todo : List (Word × Byte)) (j : Nat) (m : Memory), MemHolds t.cfg m →
      MemHolds t.cfg (racedEnd pick w view t stores todo j m)
  | [], _, _, h => h
  | (a, _) :: rest, j, _, h => racedEnd_memHolds pick w view t stores rest (j + 1) _ (h.storeByte _ a.isLt)

/-- Outside the windows no byte is reserved, so a write there is a store. -/
theorem write_eq_storeByte {cfg : Config} {m : Memory} {a : Nat} {b : Byte}
    (ha : inRegion (windowRegion cfg) a = false) : m.write a b = storeByte cfg m a b := by
  simp [storeByte, reservedByte, ha]

theorem ramAfterReset_memHolds (cfg : Config) (k : Nat) : MemHolds cfg (ramAfterReset cfg k) := by
  refine List.foldlRecOn (motive := MemHolds cfg) (Config.ramAfterReset k) _ (MemHolds.nil cfg) fun m hm x _ => ?_
  split
  · exact hm
  · rename_i hx
    rw [write_eq_storeByte (by simpa using hx)]
    exact hm.storeByte x.2 x.1.isLt

/-! ## What keeps a context's part -/

/-- R43 for c rests on c's own allocations alone. -/
theorem CtxHolds.mono {cfg : Config} {live live' : List Allocation} {c : Nat} {x : Ctx} (h : CtxHolds cfg live c x)
    (hl : ∀ l ∈ live, l.owner = c → l ∈ live') : CtxHolds cfg live' c x where
  payload := h.payload
  header := h.header
  owned ho := by
    obtain ⟨hhbase, hplen, hmem⟩ := h.owned ho
    exact ⟨hhbase, hplen, hl _ hmem rfl⟩
  borrowed := h.borrowed

/-- A BORROWED context may reference any header and payload region that fit. -/
theorem CtxHolds.rebind {cfg : Config} {live : List Allocation} {c : Nat} {x : Ctx} (h : CtxHolds cfg live c x)
    (hb : x.own = .borrowed) {b a n : Word} (hhdr : b.toNat + 20 ≤ 2 ^ 32)
    (hpay : n.toNat = 0 ∨ a.toNat + n.toNat ≤ 2 ^ 32) :
    CtxHolds cfg live c { x with hbase := b, paddr := a, plen := n } where
  payload := hpay
  header := hhdr
  owned ho := by simp [hb] at ho
  borrowed := h.borrowed

/-- A length that SET_LENGTH takes keeps R43 (40_wireheader.md R132): on an OWNED context the payload stays inside a live
buffer. -/
theorem CtxHolds.setPlen {cfg : Config} {live : List Allocation} {c : Nat} {x : Ctx} (h : CtxHolds cfg live c x)
    (hlive : ∀ l ∈ live, l.base.toNat + l.size.toNat ≤ 2 ^ 32) {n : Word} (hn : (badLength x n).1 = false) :
    CtxHolds cfg live c { x with plen := n } := by
  obtain ⟨howned, hborrowed⟩ := (badLength_passed x n).1 hn
  refine ⟨?_, h.header, fun ho => ?_, h.borrowed⟩
  · cases ho : x.own with
    | owned =>
      obtain ⟨_, _, hmem⟩ := h.owned ho
      have hbuf : x.paddr.toNat + x.ocap.toNat ≤ 2 ^ 32 := hlive _ hmem
      have hcap : n.toNat ≤ x.ocap.toNat := howned ho
      exact .inr (show x.paddr.toNat + n.toNat ≤ 2 ^ 32 by omega)
    | borrowed => exact hborrowed ho
  · obtain ⟨hhbase, _, hmem⟩ := h.owned ho
    exact ⟨hhbase, howned ho, hmem⟩

/-- The windows lie inside M (00_scope.md R9). -/
theorem winAddr_fits {cfg : Config} (h : cfg.wellFormed = true) {c : Nat} (hc : c < cfg.nCtx) :
    winAddr cfg c + 32 ≤ 2 ^ 32 := by
  simp only [Config.wellFormed, Config.winFits, Bool.and_eq_true, decide_eq_true_eq] at h
  simp only [winAddr]
  omega

theorem winAddr_toNat {cfg : Config} (h : cfg.wellFormed = true) {c : Nat} (hc : c < cfg.nCtx) :
    (BitVec.ofNat 32 (winAddr cfg c)).toNat = winAddr cfg c := by
  have := winAddr_fits h hc
  simp only [BitVec.toNat_ofNat]
  omega

/-- A context's registers after reset meet R43. -/
theorem CtxHolds.fresh {cfg : Config} (h : cfg.wellFormed = true) (live : List Allocation) {c : Nat}
    (hc : c < cfg.nCtx) : CtxHolds cfg live c (Ctx.fresh cfg c) where
  payload := .inl rfl
  header := by
    have := winAddr_fits h hc
    simp only [Ctx.fresh, winAddr_toNat h hc]
    omega
  owned ho := by simp [Ctx.fresh] at ho
  borrowed _ := rfl

/-! ## What keeps the invariant -/

/-- The invariant reads the parameters, the contexts, the live set, the memory and ERR, no other field. -/
theorem Invariant.congr {s t : State} (h : Invariant s) (hcfg : t.cfg = s.cfg) (hctxs : t.ctxs = s.ctxs)
    (hlive : t.live = s.live) (hmem : MemHolds s.cfg t.mem) (herr : t.err.toNat ≤ 0x0B) : Invariant t where
  cfg := hcfg ▸ h.cfg
  count := by rw [hctxs, hcfg, h.count]
  ctx c hc := by
    rw [ctx_congr hcfg hctxs, hcfg, hlive]
    exact h.ctx c (hcfg ▸ hc)
  live := hlive ▸ h.live
  mem := hcfg ▸ hmem
  err := herr

theorem Invariant.setErr {s : State} (h : Invariant s) {e : BitVec 8} (he : e.toNat ≤ 0x0B) :
    Invariant { s with err := e } :=
  h.congr rfl rfl rfl h.mem he

/-- An error keeps the invariant, whatever it leaves in the fields that the invariant does not read. -/
theorem Invariant.failed {s : State} (h : Invariant s) (e : ErrCode) : Invariant (s.failed e.code) :=
  h.congr rfl rfl rfl h.mem e.code_range.2

theorem Invariant.setMem {s : State} (h : Invariant s) {m : Memory} (hm : MemHolds s.cfg m) :
    Invariant { s with mem := m } :=
  h.congr rfl rfl rfl hm h.err

theorem Invariant.setRes {s : State} (h : Invariant s) (v0 v1 v2 v3 : Word) :
    Invariant { s with res0 := v0, res1 := v1, res2 := v2, res3 := v3 } :=
  h.congr rfl rfl rfl h.mem h.err

theorem Invariant.writeBytes {s : State} (h : Invariant s) {a : Nat} (bs : List Byte)
    (ha : a + bs.length ≤ 2 ^ 32) : Invariant (s.writeBytes a bs) :=
  h.setMem (h.mem.storeBytes bs ha)

/-- The words of a header within 10_state.md R43 (b) end at or below 2^32. -/
theorem Invariant.hdrAddr_fits {s : State} (h : Invariant s) {c w : Nat} (hc : c < s.cfg.nCtx) (hw : w ≤ 4) :
    s.hdrAddr c w + 4 ≤ 2 ^ 32 := by
  have := (h.ctx c hc).header
  simp only [State.hdrAddr]
  omega

theorem Invariant.setHdr {s : State} (h : Invariant s) {c w : Nat} (hc : c < s.cfg.nCtx) (hw : w ≤ 4) (v : Word) :
    Invariant (s.setHdr c w v) :=
  h.writeBytes (wordBytes v) (by simpa using h.hdrAddr_fits hc hw)

/-- One context takes new registers that meet R43, and no allocation of another context is lost: the shape of every
command on a context, CLONE and RELEASE among them. -/
theorem Invariant.update {s t : State} (h : Invariant s) {c : Nat} {x : Ctx} (hcfg : t.cfg = s.cfg)
    (hctxs : t.ctxs = s.ctxs.set c x) (hx : CtxHolds s.cfg t.live c x)
    (hkept : ∀ l ∈ s.live, l.owner ≠ c → l ∈ t.live)
    (hlive : ∀ l ∈ t.live, l.base.toNat + l.size.toNat ≤ 2 ^ 32) (hmem : MemHolds s.cfg t.mem)
    (herr : t.err.toNat ≤ 0x0B) : Invariant t where
  cfg := hcfg ▸ h.cfg
  count := by rw [hctxs, hcfg, List.length_set, h.count]
  ctx d hd := by
    rw [hcfg] at hd ⊢
    have htd : t.ctx d = (s.setCtx c x).ctx d := ctx_congr (s := s.setCtx c x) hcfg hctxs d
    by_cases hdc : d = c
    · subst hdc
      rw [htd, ctx_setCtx_same s x (by rwa [h.count])]
      exact hx
    · rw [htd, ctx_setCtx_other s x hdc]
      exact (h.ctx d hd).mono fun l hl ho => hkept l hl (by omega)
  live := hlive
  mem := hcfg ▸ hmem
  err := herr

theorem Invariant.setCtx {s : State} (h : Invariant s) {c : Nat} {x : Ctx} (hx : CtxHolds s.cfg s.live c x) :
    Invariant (s.setCtx c x) :=
  h.update rfl rfl hx (fun _ hl _ => hl) h.live h.mem h.err

/-- RELEASE: the context is as after reset, and only its own buffer leaves the live set (41_packet.md R166). -/
theorem Invariant.released {s : State} (h : Invariant s) {c : Nat} (hc : c < s.cfg.nCtx) :
    Invariant (released c s) := by
  have hwin := winAddr_fits h.cfg hc
  rw [released_eq]
  refine h.update (c := c) rfl rfl (.fresh h.cfg _ hc) (fun l hl ho => ?_) (fun l hl => ?_)
    (h.mem.storeBytes _ ?_) h.err
  · have hne : l ≠ ⟨c, (s.ctx c).paddr, (s.ctx c).ocap⟩ := fun e => ho (by rw [e])
    show l ∈ if _ then _ else _
    split
    · exact (List.mem_erase_of_ne hne).2 hl
    · exact hl
  · change l ∈ if _ then _ else _ at hl
    split at hl
    · exact h.live l (List.mem_of_mem_erase hl)
    · exact h.live l hl
  · simp only [List.length_replicate, hdrSize]
    omega

/-- A control PACK of a BORROWED context (41_packet.md R161). -/
theorem Invariant.packedControl {s : State} (h : Invariant s) {c : Nat} (hc : c < s.cfg.nCtx)
    (hb : (s.ctx c).own = .borrowed) {lp rp : Bool}
    (hpay : rp = true → s.arg3.toNat = 0 ∨ s.arg2.toNat + s.arg3.toNat ≤ 2 ^ 32) :
    Invariant (packedControl c lp rp s) := by
  have h0 : Invariant (s.setHdr c 0 (controlWord s.arg0)) := h.setHdr hc (by omega) _
  have hempty : CtxHolds s.cfg s.live c { s.ctx c with paddr := 0, plen := 0 } :=
    (h.ctx c hc).rebind hb (h.ctx c hc).header (.inl rfl)
  cases lp with
  | true => exact (h0.setHdr (c := c) (w := 1) hc (by omega) s.arg1).setCtx hempty
  | false =>
    cases rp with
    | true => exact h0.setCtx ((h.ctx c hc).rebind hb (h.ctx c hc).header (hpay rfl))
    | false => exact h0.setCtx hempty

/-- Every command but CLONE, finishing, keeps the invariant. -/
theorem Invariant.commandDone {s : State} (h : Invariant s) {i : Instr}
    (hpass : firstError (commandChecks s i) = none) : Invariant (commandDone s i) := by
  rw [firstError_none] at hpass
  cases i with
  | setWord c =>
    simp only [commandChecks, List.forall_mem_cons, noCtx_passed, badIndex_passed] at hpass
    obtain ⟨hc, hk, _⟩ := hpass
    exact h.setHdr hc hk _
  | setFrameId c | setChunkId c | setTotalChunks c | setFrameDeadline c =>
    simp only [commandChecks, List.forall_mem_cons, noCtx_passed] at hpass
    exact h.setHdr hpass.1 (by omega) _
  | setLength c =>
    simp only [commandChecks, List.forall_mem_cons, noCtx_passed] at hpass
    obtain ⟨hc, hn, _⟩ := hpass
    exact h.setCtx ((h.ctx _ hc).setPlen h.live hn)
  | pack c lp rp =>
    simp only [commandChecks, List.forall_mem_cons, noCtx_passed, isOwned_passed] at hpass
    obtain ⟨hc, _, _, hb, hrange, _⟩ := hpass
    by_cases hf : isControl s.arg0
    · simp only [Machine.commandDone, hf, if_true]
      refine h.packedControl hc hb fun hrp => ?_
      simpa [hf, hrp, pastTop_eq_false] using hrange
    · simp only [Machine.commandDone, hf]
      exact h.setHdr hc (by omega) _
  | bind c =>
    simp only [commandChecks, List.forall_mem_cons, noCtx_passed, isOwned_passed, badRange_passed,
      decide_eq_false_iff_not, hdrSize] at hpass
    obtain ⟨hc, hb, hshort, hrange, _⟩ := hpass
    have hn := s.arg1.isLt
    refine h.setCtx ((h.ctx _ hc).rebind hb (by omega) ?_)
    simp only [BitVec.toNat_ofNat, hdrSize]
    omega
  | setPayload c =>
    simp only [commandChecks, List.forall_mem_cons, noCtx_passed, isOwned_passed, badRange_passed] at hpass
    obtain ⟨hc, hb, hrange, _⟩ := hpass
    exact h.setCtx ((h.ctx _ hc).rebind hb (h.ctx _ hc).header hrange)
  | release c =>
    simp only [commandChecks, List.forall_mem_cons, noCtx_passed] at hpass
    exact h.released hpass.1
  | hsSerialize =>
    simp only [commandChecks, List.forall_mem_cons, badRange_passed, hsSize] at hpass
    obtain ⟨_, hrange, _⟩ := hpass
    have hstored : Invariant (s.writeBytes s.arg0.toNat s.hs.bytes) :=
      h.writeBytes _ (show s.arg0.toNat + 48 ≤ 2 ^ 32 by omega)
    exact hstored.congr rfl rfl rfl hstored.mem hstored.err
  | clone => exact h
  | hsNew | hsSet => exact h.congr rfl rfl rfl h.mem h.err
  | hsDeserialize =>
    have hres := h.setRes (BitVec.ofNat 32 hsSize) s.res1 s.res2 s.res3
    exact hres.congr rfl rfl rfl hres.mem hres.err
  | _ => exact h.setRes _ _ _ _

end Sys2Proof.Machine

namespace Sys2Proof.Machine

/-! ## Every command keeps the invariant -/

theorem mappedRegion_fits {cfg : Config} {r : Region} (h : mappedRegion cfg r = true) : r.1 + r.2 ≤ 2 ^ 32 := by
  simp only [mappedRegion, Bool.and_eq_true, decide_eq_true_eq] at h
  exact h.1

theorem allocOk_fits {s : State} {n a : Word} (h : allocOk s n a = true) : a.toNat + n.toNat ≤ 2 ^ 32 := by
  simp only [allocOk, Bool.and_eq_true, decide_eq_true_eq] at h
  exact h.1.1

/-- CLONE with an answer under the contract: the destination owns the buffer, which is live, and nothing of another
context changes (41_packet.md R163). -/
theorem Invariant.cloned {s : State} (h : Invariant s) (p : State) {dst src : Nat} {a : Word}
    (answers : List (Option Word)) (draws : Nat) (hc : dst < s.cfg.nCtx)
    (hok : allocOk s (s.ctx src).plen a = true) :
    Invariant (cloned dst src a p s (s.granted dst (s.ctx src).plen a answers draws)) := by
  have hwin := winAddr_fits h.cfg hc
  have hbuf := allocOk_fits hok
  have hmem : MemHolds s.cfg
      (storeBytes s.cfg (storeBytes s.cfg s.mem (winAddr s.cfg dst) (s.readBytes (s.ctx src).hbase.toNat hdrSize))
        a.toNat (p.readBytes (s.ctx src).paddr.toNat (s.ctx src).plen.toNat)) :=
    (h.mem.storeBytes _ (by simp only [readBytes_length, hdrSize]; omega)).storeBytes _
      (by simpa only [readBytes_length] using hbuf)
  refine h.update (c := dst) rfl rfl ⟨.inr hbuf, ?_, fun _ => ⟨winAddr_toNat h.cfg hc, Nat.le_refl _, .head _⟩, nofun⟩
    (fun _ hl _ => .tail _ hl) (fun l hl => ?_) hmem h.err
  · simp only [winAddr_toNat h.cfg hc]
    omega
  · rcases List.mem_cons.1 hl with rfl | hl
    · exact hbuf
    · exact h.live l hl

theorem Ends.invariant {p s t : State} {i : Instr} (h : Ends p s i t) (hs : Invariant s) : Invariant t := by
  cases h with
  | failed e _ => exact hs.failed e
  | finished _ hpass => exact (hs.commandDone hpass).setErr (by decide)
  | allocFailed answers draws _ => exact hs.congr rfl rfl rfl hs.mem ErrCode.alloc.code_range.2
  | @cloned dst src a answers draws hpass hok =>
    simp only [firstError_none, commandChecks, cloneChecks, List.forall_mem_cons, noCtx_passed] at hpass
    exact (hs.cloned p answers draws hpass.1 hok).setErr (by decide)

/-- No command changes a parameter. -/
theorem Ends.cfg {p s t : State} {i : Instr} (h : Ends p s i t) : t.cfg = s.cfg := by
  cases h with
  | finished => exact commandDone_cfg s i
  | failed | allocFailed | cloned => rfl

/-- Settles O42: what `CtxHolds` says of the state a command ends in. -/
theorem commandsKeepContextInvariants : Obligations.CommandsKeepContextInvariants := by
  intro s t i hs ht c hc
  have hends := exec_ends ht
  have hcfg := hends.cfg
  have hctx := (hends.invariant ((inv_iff s).1 hs)).ctx c (hcfg ▸ hc)
  rw [hcfg] at hctx
  exact ⟨hctx.payload.imp_left fun h0 => BitVec.eq_of_toNat_eq h0, hctx.header, hctx.owned, hctx.borrowed⟩

/-! ## What an input does -/

/-- All that a CMD write can come to (10_state.md R25, 30_encoding.md R96). -/
theorem issueReading_cases {p s t : State} {w : Word} (h : issueReading p w s = .next t) :
    (∃ i, decode w = .ok i ∧ Ends p { s with cmd := w } i t) ∨
      (∃ e, decode w = .error e ∧ t = State.failed { s with cmd := w } ErrCode.illegal.code) := by
  unfold issueReading at h
  split at h
  case h_1 i hi => exact .inl ⟨i, hi, execReading_ends h⟩
  case h_2 e he => exact .inr ⟨e, he, by simpa [raise] using h.symm⟩

/-- The ways an input leads to a next state. -/
inductive Takes (s : State) : Input → State → Prop
  /-- a CMD write -/
  | command {off : BitVec 6} {w : Word} {t : State} (hreg : portReg off = .cmd)
      (ht : issueReading s w s = .next t) : Takes s (.portWrite off .bits32 w) t
  /-- a CMD write that races with stores: the command on the raced reads, then the race's end -/
  | raced {w : Word} {stores : List (Word × Byte)} {u : State} (pick : Nat → Nat)
      (hu : issueReading (racePayload pick stores s) w (raceView pick stores s) = .next u) :
    Takes s (.cmdRaced w stores)
      { u with mem := racedEnd pick w (raceView pick stores s) u stores stores (2 * stores.length) u.mem }
  /-- a write of another register -/
  | portWrite {off : BitVec 6} {v : Word} (halign : off.toNat % 4 = 0) (hreg : portReg off ≠ .cmd) :
    Takes s (.portWrite off .bits32 v) (s.portStore v (portReg off))
  | portRead {off : BitVec 6} {width : AccessWidth} :
    Takes s (.portRead off width) (s.recordRead (s.portValue (portReg off)))
  | memWrite8 {a : Word} {b : Byte} : Takes s (.memWrite8 a b) (s.writeBytes a.toNat [b])
  | memWrite32 {a v : Word} (hfits : a.toNat + 4 ≤ 2 ^ 32) : Takes s (.memWrite32 a v) (s.writeWord a.toNat v)
  | memRead32 {a : Word} : Takes s (.memRead32 a) (s.recordRead (s.wordAt a.toNat))
  | platformReset : Takes s .platformReset s.platformReset
  | reclaim : Takes s .reclaim s.reclaim

theorem portAccessOk_iff (off : BitVec 6) (width : AccessWidth) :
    portAccessOk off width = true ↔ width = .bits32 ∧ off.toNat % 4 = 0 := by
  simp [portAccessOk]

theorem agentAccess_next {s done t : State} {a n : Nat} (h : agentAccess s a n done = .next t) :
    a + n ≤ 2 ^ 32 ∧ t = done := by
  unfold agentAccess at h
  split at h
  · rename_i hmapped
    exact ⟨mappedRegion_fits hmapped, by simpa using h.symm⟩
  · simp at h

/-- The inversion lemma of an input. -/
theorem takeInput_takes {s t : State} {x : Input} (h : takeInput x s = .next t) : Takes s x t := by
  cases x with
  | portWrite off width v =>
    simp only [takeInput, portAccessOk_iff] at h
    split at h
    · rename_i hok
      obtain ⟨rfl, halign⟩ := hok
      split at h
      · rename_i hreg
        exact .command hreg (by rwa [issueReading_same fun _ => rfl])
      · rename_i hreg
        obtain rfl : s.portStore v (portReg off) = t := by simpa using h
        exact .portWrite halign hreg
    · simp at h
  | portRead off width =>
    simp only [takeInput] at h
    split at h
    · obtain rfl : s.recordRead (s.portValue (portReg off)) = t := by simpa using h
      exact .portRead
    · simp at h
  | memWrite8 a b =>
    obtain ⟨_, rfl⟩ := agentAccess_next h
    exact .memWrite8
  | memWrite32 a v =>
    obtain ⟨hfits, rfl⟩ := agentAccess_next h
    exact .memWrite32 hfits
  | memRead32 a =>
    obtain ⟨_, rfl⟩ := agentAccess_next h
    exact .memRead32
  | cmdRaced w stores =>
    simp only [takeInput] at h
    split at h
    · simp at h
    · simp only [issueRaced, raceWith] at h
      split at h
      · rename_i u hu
        simp only [Host.Outcome.next.injEq] at h
        exact h ▸ .raced _ hu
      · simp at h
      · simp at h
  | platformReset =>
    obtain rfl : s.platformReset = t := by simpa [takeInput] using h
    exact .platformReset
  | reclaim =>
    obtain rfl : s.reclaim = t := by simpa [takeInput] using h
    exact .reclaim

/-- A step is idle, or it takes the first input of the stream. -/
theorem step_cases {s t : State} (h : step s = .next t) :
    (s.inputs = [] ∧ t = s) ∨ ∃ x rest, s.inputs = x :: rest ∧ Takes { s with inputs := rest } x t := by
  unfold step at h
  split at h
  · rename_i hin
    exact .inl ⟨hin, by simpa using h.symm⟩
  · rename_i x rest hin
    exact .inr ⟨x, rest, hin, takeInput_takes h⟩

/-! ## Every step keeps the invariant -/

theorem issueReading_invariant {p s t : State} {w : Word} (h : issueReading p w s = .next t) (hs : Invariant s) :
    Invariant t := by
  have hcmd : Invariant { s with cmd := w } := hs.congr rfl rfl rfl hs.mem hs.err
  rcases issueReading_cases h with ⟨i, _, hends⟩ | ⟨e, _, rfl⟩
  · exact hends.invariant hcmd
  · exact hcmd.failed .illegal

theorem Invariant.raceView {s : State} (h : Invariant s) (pick : Nat → Nat) (stores : List (Word × Byte)) :
    Invariant (raceView pick stores s) :=
  h.congr rfl rfl rfl (racedView_memHolds pick s stores stores 0 s.mem h.mem) h.err

theorem Invariant.portStore {s : State} (h : Invariant s) (v : Word) (r : PortReg) : Invariant (s.portStore v r) := by
  cases r with
  | cmd | status => exact h.congr rfl rfl rfl h.mem h.err
  | arg i =>
    exact h.congr (State.setArg_cfg s i v) (State.setArg_ctxs s i v) (State.setArg_live s i v)
      (by simpa [State.portStore] using h.mem) (by simpa [State.portStore] using h.err)
  | res _ | reserved => exact h

/-- After reset every context has its reset registers (10_state.md R49), whatever else a reset leaves. -/
theorem ctx_of_reset {cfg : Config} {t : State} (hcfg : t.cfg = cfg) (hctxs : t.ctxs = (State.resetOf cfg).ctxs)
    (c : Nat) : t.ctx c = Ctx.fresh cfg c := by
  by_cases hc : c < cfg.nCtx <;> simp [State.ctx, State.resetOf, hcfg, hctxs, List.getD_eq_getElem?_getD, hc]

/-- The reset values meet the invariant, whatever memory and live set a reset leaves. -/
theorem invariant_of_reset {cfg : Config} {t : State} (h : cfg.wellFormed = true) (hcfg : t.cfg = cfg)
    (hctxs : t.ctxs = (State.resetOf cfg).ctxs) (hlive : ∀ l ∈ t.live, l.base.toNat + l.size.toNat ≤ 2 ^ 32)
    (hmem : MemHolds cfg t.mem) (herr : t.err = 0) : Invariant t where
  cfg := hcfg ▸ h
  count := by simp [hctxs, hcfg, State.resetOf]
  ctx c hc := by
    rw [ctx_of_reset hcfg hctxs, hcfg]
    exact .fresh h _ (hcfg ▸ hc)
  live := hlive
  mem := hcfg ▸ hmem
  err := by simp [herr]

/-- The buffer of an OWNED context is not reclaimed (70_reset_and_hazards.md R294). -/
theorem Invariant.reclaim {s : State} (h : Invariant s) : Invariant s.reclaim where
  cfg := h.cfg
  count := h.count
  ctx c hc := by
    have hctx := h.ctx c hc
    refine ⟨hctx.payload, hctx.header, fun ho => ?_, hctx.borrowed⟩
    obtain ⟨hhbase, hplen, hmem⟩ := hctx.owned ho
    refine ⟨hhbase, hplen, List.mem_filter.2 ⟨hmem, ?_⟩⟩
    have hsame : s.reclaim.ctx c = s.ctx c := rfl
    rw [hsame] at ho ⊢
    simpa [holds, ho] using hc
  live l hl := h.live l (List.mem_of_mem_filter hl)
  mem := h.mem
  err := h.err

theorem Takes.invariant {s t : State} {x : Input} (h : Takes s x t) (hs : Invariant s) : Invariant t := by
  cases h with
  | command _ ht => exact issueReading_invariant ht hs
  | raced pick hu =>
    have hu' := issueReading_invariant hu (hs.raceView pick _)
    exact hu'.setMem (racedEnd_memHolds pick _ _ _ _ _ _ _ hu'.mem)
  | portWrite => exact hs.portStore _ _
  | portRead | memRead32 => exact hs.congr rfl rfl rfl hs.mem hs.err
  | @memWrite8 a b => exact hs.writeBytes [b] (Nat.succ_le_of_lt a.isLt)
  | @memWrite32 a v hfits => exact hs.writeBytes (wordBytes v) (by simpa using hfits)
  | platformReset =>
    exact invariant_of_reset hs.cfg rfl rfl hs.live (ramAfterReset_memHolds _ _) rfl
  | reclaim => exact hs.reclaim

/-- Settles O39, by the ways an input leads to a next state, each of which keeps the invariant. -/
theorem stepKeepsInvariant : Obligations.StepKeepsInvariant := by
  intro s t hs ht
  rw [inv_iff] at hs ⊢
  rcases step_cases ht with ⟨_, rfl⟩ | ⟨x, rest, _, htakes⟩
  · exact hs
  · exact htakes.invariant (hs.congr rfl rfl rfl hs.mem hs.err)

end Sys2Proof.Machine

namespace Sys2Proof.Machine

/-! ## STATUS: what commands and inputs do to ANYERR, and that no command reads it -/

/-- The bit that a STATUS write is read for. -/
theorem slice_bit_eq_one (v : Word) (k : Nat) : slice v k k = 1 ↔ v.toNat / 2 ^ k % 2 = 1 := by
  rw [← BitVec.toNat_inj, slice_toNat v k k (by omega)]
  simp

/-- STATUS stands at offset 4 alone (10_state.md R21). -/
theorem offset_of_status {off : BitVec 6} (halign : off.toNat % 4 = 0) (h : portReg off = .status) :
    off.toNat = 0x04 := by
  unfold portReg at h
  split at h
  case h_2 hoff => omega
  all_goals cases h

/-- ANYERR after a command: as before where it finished, 1 where it ended with an error (60_exceptions.md R262). -/
theorem Ends.anyErr {p s t : State} {i : Instr} (h : Ends p s i t) :
    t.anyErr = if t.err = 0 then s.anyErr else true := by
  cases h with
  | failed e _ =>
    have hcode : e.code ≠ 0 := fun h0 => by simpa [h0] using e.code_range.1
    exact (if_neg hcode).symm
  | finished => simp [okCode]
  | allocFailed => simp [ErrCode.code]
  | cloned => rfl

theorem issueReading_anyErr {p s t : State} {w : Word} (h : issueReading p w s = .next t) (hs : s.anyErr = true) :
    t.anyErr = true := by
  rcases issueReading_cases h with ⟨i, _, hends⟩ | ⟨e, _, rfl⟩
  · simp [hends.anyErr, hs]
  · rfl

/-- Of all inputs only a reset and a STATUS write with bit 9 = 1 clear ANYERR. -/
theorem Takes.anyErr_cleared {s t : State} {x : Input} (h : Takes s x t) (hs : s.anyErr = true)
    (ht : t.anyErr = false) :
    x = .platformReset ∨ ∃ off v, x = .portWrite off .bits32 v ∧ off.toNat = 0x04 ∧ v.toNat / 2 ^ 9 % 2 = 1 := by
  cases h with
  | command _ hu => simp [issueReading_anyErr hu hs] at ht
  | raced pick hu =>
    have hu' := issueReading_anyErr hu (s := raceView pick _ s) hs
    simp [hu'] at ht
  | @portWrite off v halign hreg =>
    refine .inr ⟨off, v, rfl, ?_⟩
    cases hr : portReg off with
    | cmd => exact absurd hr hreg
    | status =>
      refine ⟨offset_of_status halign hr, (slice_bit_eq_one v 9).1 ?_⟩
      simpa [hr, State.portStore, hs] using ht
    | arg | res | reserved => simp [hr, State.portStore, hs] at ht
  | portRead | memWrite8 | memWrite32 | memRead32 | reclaim => simp [hs] at ht
  | platformReset => exact .inl rfl

/-- Settles O52, by the ways an input leads to a next state. -/
theorem anyErrIsSticky : Obligations.AnyErrIsSticky := by
  intro s t ht hs hclear
  rcases step_cases ht with ⟨_, rfl⟩ | ⟨x, rest, hin, htakes⟩
  · simp [hs] at hclear
  · rcases htakes.anyErr_cleared hs hclear with rfl | ⟨off, v, rfl, hoff, hbit⟩
    · exact ⟨rest, .inl hin⟩
    · exact ⟨rest, .inr ⟨off, v, hin, hoff, hbit⟩⟩

/-- The state with other values of ERR and ANYERR. -/
def State.withStatus (s : State) (e : BitVec 8) (b : Bool) : State := { s with err := e, anyErr := b }

/-- What comes of a request, in states with other values of ERR and ANYERR. -/
def AllocResult.withStatus (e : BitVec 8) (b : Bool) : AllocResult → AllocResult
  | .broken a => .broken a
  | .failed u => .failed (u.withStatus e b)
  | .granted a u => .granted a (u.withStatus e b)

section

variable (s : State) (e : BitVec 8) (b : Bool)

theorem withStatus_readBytes (n a : Nat) : (s.withStatus e b).readBytes a n = s.readBytes a n :=
  readBytes_congr (s := s) (t := s.withStatus e b) (fun _ => rfl) n a

/-- No check of a command reads STATUS. -/
theorem commandChecks_withStatus (i : Instr) : commandChecks (s.withStatus e b) i = commandChecks s i := by
  cases i <;> rfl

/-- What a command does when it finishes neither reads nor writes STATUS. -/
theorem commandDone_withStatus (i : Instr) : commandDone (s.withStatus e b) i = (commandDone s i).withStatus e b := by
  cases i with
  | pack c lp rp =>
    have harg : (s.withStatus e b).arg0 = s.arg0 := rfl
    simp only [commandDone, harg]
    split
    · simp only [packedControl_eq]
      rfl
    · rfl
  | release c =>
    simp only [commandDone, released_eq]
    rfl
  | _ => rfl

/-- The allocator's answer does not depend on STATUS. -/
theorem requestAlloc_withStatus (owner : Nat) (n : Word) :
    requestAlloc (s.withStatus e b) owner n = (requestAlloc s owner n).withStatus e b := by
  have hanswers : (s.withStatus e b).allocAnswers = s.allocAnswers := rfl
  have hdraws : (s.withStatus e b).draws = s.draws := rfl
  have hok : ∀ a, allocOk (s.withStatus e b) n a = allocOk s n a := fun _ => rfl
  unfold requestAlloc
  rw [hanswers, hdraws]
  cases s.allocAnswers with
  | cons answer rest =>
    cases answer with
    | none => rfl
    | some a => cases h : allocOk s n a <;> simp only [hok, h] <;> rfl
  | nil =>
    cases Config.allocDraw s.draws with
    | none => rfl
    | some a => cases h : allocOk s n a <;> simp only [hok, h] <;> rfl

theorem cloned_withStatus (dst src : Nat) (a : Word) (s1 : State) :
    cloned dst src a (s.withStatus e b) (s.withStatus e b) (s1.withStatus e b) =
      (cloned dst src a s s s1).withStatus e b := by
  have hctx : (s.withStatus e b).ctx src = s.ctx src := rfl
  simp only [cloned, withStatus_readBytes, hctx]
  rfl

/-- An outcome with ANYERR as it is where it was b before the command (10_state.md R27). -/
def underAnyErr (b : Bool) : Host.Outcome State Fault Refusal → Host.Outcome State Fault Refusal
  | .next t => .next { t with anyErr := if t.err = 0 then b else true }
  | .fault f => .fault f
  | .refused r => .refused r

theorem raise_withStatus (err : ErrCode) : raise (s.withStatus e b) err = underAnyErr b (raise s err) := by
  have hcode : err.code ≠ 0 := fun h0 => by simpa [h0] using err.code_range.1
  simp only [raise, underAnyErr, State.withStatus, if_neg hcode]

theorem finish_withStatus : finish (s.withStatus e b) = underAnyErr b (finish s) := rfl

theorem complete_withStatus (checks : List (Bool × ErrCode)) (done : State) :
    complete (s.withStatus e b) checks (done.withStatus e b) = underAnyErr b (complete s checks done) := by
  unfold complete
  cases firstError checks with
  | some err => exact raise_withStatus s e b err
  | none => exact finish_withStatus done e b

theorem cloneReading_withStatus (dst src : Byte) :
    cloneReading dst src (s.withStatus e b) (s.withStatus e b) = underAnyErr b (cloneReading dst src s s) := by
  have hchecks : cloneChecks dst src (s.withStatus e b) = cloneChecks dst src s := rfl
  have hctx : (s.withStatus e b).ctx src.toNat = s.ctx src.toNat := rfl
  simp only [cloneReading, hchecks, hctx, requestAlloc_withStatus]
  cases firstError (cloneChecks dst src s) with
  | some err => exact raise_withStatus s e b err
  | none =>
    cases requestAlloc s dst.toNat (s.ctx src.toNat).plen with
    | broken a => rfl
    | failed u => exact raise_withStatus u e b .alloc
    | granted a u =>
      simp only [AllocResult.withStatus, cloned_withStatus]
      exact finish_withStatus _ e b

/-- A command does the same under other values of STATUS. -/
theorem exec_withStatus (i : Instr) : exec i (s.withStatus e b) = underAnyErr b (exec i s) := by
  by_cases hi : ∃ dst src, i = .clone dst src
  · obtain ⟨dst, src, rfl⟩ := hi
    exact cloneReading_withStatus s e b dst src
  · have hi' : ∀ dst src, i ≠ .clone dst src := fun dst src h => hi ⟨dst, src, h⟩
    rw [exec_eq_complete _ i hi', exec_eq_complete _ i hi', commandChecks_withStatus, commandDone_withStatus,
      complete_withStatus]

end

/-- Settles O46: checks, result and answer commute with a change of STATUS (`exec_withStatus`). -/
theorem commandsDoNotReadStatus : Obligations.CommandsDoNotReadStatus := by
  intro s t i e b ht
  have h := exec_withStatus s e b i
  rw [ht] at h
  exact h

end Sys2Proof.Machine

namespace Sys2Proof.Machine

/-! ## Ownership -/

/-- One context's registers written: that context has them, every other is as before. -/
theorem ctx_setCtx_cases (s : State) (c : Nat) (x : Ctx) (d : Nat) :
    (d = c ∧ (s.setCtx c x).ctx d = x) ∨ (s.setCtx c x).ctx d = s.ctx d := by
  by_cases hdc : d = c
  · subst hdc
    by_cases hd : d < s.ctxs.length
    · exact .inl ⟨rfl, ctx_setCtx_same s x hd⟩
    · exact .inr (ctx_congr (s := s) (t := s.setCtx d x) rfl (List.set_eq_of_length_le (Nat.le_of_not_lt hd)) d)
  · exact .inr (ctx_setCtx_other s x hdc)

/-- Registers written with the context's own OWN change no context's OWN. -/
theorem own_setCtx (s : State) {c : Nat} {x : Ctx} (hx : x.own = (s.ctx c).own) (d : Nat) :
    ((s.setCtx c x).ctx d).own = (s.ctx d).own := by
  rcases ctx_setCtx_cases s c x d with ⟨rfl, h⟩ | h
  · rw [h, hx]
  · rw [h]

theorem ctx_setRes (s : State) (v0 v1 v2 v3 : Word) (c : Nat) :
    State.ctx { s with res0 := v0, res1 := v1, res2 := v2, res3 := v3 } c = s.ctx c := rfl

theorem packedControl_own (c : Nat) (lp rp : Bool) (s : State) (d : Nat) :
    ((packedControl c lp rp s).ctx d).own = (s.ctx d).own := by
  have hctx : (packedControl c lp rp s).ctx d =
      (s.setCtx c
        { s.ctx c with
          paddr := if lp then 0 else if rp then s.arg2 else 0
          plen := if lp then 0 else if rp then s.arg3 else 0 }).ctx d := by
    rw [packedControl_eq]
    rfl
  rw [hctx]
  exact own_setCtx s (by rfl) d

/-- RELEASE writes its own context's OWN alone. -/
theorem released_own (c : Nat) (s : State) (d : Nat) :
    (d = c ∧ ((released c s).ctx d).own = .borrowed) ∨ ((released c s).ctx d).own = (s.ctx d).own := by
  have hctx : (released c s).ctx d = (s.setCtx c (Ctx.fresh s.cfg c)).ctx d := by
    rw [released_eq]
    rfl
  rw [hctx]
  rcases ctx_setCtx_cases s c (Ctx.fresh s.cfg c) d with ⟨hd, h⟩ | h
  · exact .inl ⟨hd, by rw [h]; rfl⟩
  · exact .inr (by rw [h])

/-- CLONE writes its destination's OWN alone. -/
theorem cloned_own (dst src : Nat) (a : Word) (p s s1 : State) (d : Nat) :
    (d = dst ∧ ((cloned dst src a p s s1).ctx d).own = .owned) ∨
      ((cloned dst src a p s s1).ctx d).own = (s1.ctx d).own := by
  unfold cloned
  rcases ctx_setCtx_cases (State.writeBytes _ _ _) dst ⟨_, _, _, _, _⟩ d with ⟨hd, h⟩ | h
  · exact .inl ⟨hd, congrArg Ctx.own h⟩
  · exact .inr (congrArg Ctx.own h)

/-- Of the commands that finish, CLONE apart, only RELEASE writes an OWN, its own context's. -/
theorem commandDone_own (s : State) (i : Instr) (c : Nat) :
    ((commandDone s i).ctx c).own = (s.ctx c).own ∨
      ((commandDone s i).ctx c).own = .borrowed ∧ ∃ d, i = .release d ∧ d.toNat = c := by
  cases i with
  | setLength d | bind d | setPayload d => exact .inl (own_setCtx s (by rfl) c)
  | pack d lp rp =>
    simp only [commandDone]
    split
    · exact .inl (packedControl_own d.toNat lp rp s c)
    · exact .inl rfl
  | release d =>
    rcases released_own d.toNat s c with ⟨hc, h⟩ | h
    · exact .inr ⟨h, d, rfl, hc.symm⟩
    · exact .inl h
  | setWord | clone | setFrameId | setChunkId | setTotalChunks | setFrameDeadline | hsNew | hsSet | hsSerialize
  | hsDeserialize => exact .inl rfl
  | _ => exact .inl (congrArg Ctx.own (ctx_setRes s _ _ _ _ c))

/-- A command that changes an OWN is the CLONE into that context, which sets it, or its RELEASE, which clears it
(10_state.md R31). -/
theorem Ends.own_changed {p s t : State} {i : Instr} {c : Nat} (h : Ends p s i t)
    (hne : (t.ctx c).own ≠ (s.ctx c).own) :
    ((t.ctx c).own = .owned ∧ ∃ dst src, i = .clone dst src ∧ dst.toNat = c) ∨
      ((t.ctx c).own = .borrowed ∧ ∃ d, i = .release d ∧ d.toNat = c) := by
  cases h with
  | failed | allocFailed => exact absurd rfl hne
  | finished => exact .inr ((commandDone_own s i c).resolve_left hne)
  | @cloned dst src a answers draws =>
    obtain ⟨hc, ho⟩ := (cloned_own dst.toNat src.toNat a p s
      (s.granted dst.toNat (s.ctx src.toNat).plen a answers draws) c).resolve_right hne
    exact .inl ⟨ho, dst, src, rfl, hc.symm⟩

theorem issueReading_own_changed {p s t : State} {w : Word} {c : Nat} (h : issueReading p w s = .next t)
    (hne : (t.ctx c).own ≠ (s.ctx c).own) :
    ((t.ctx c).own = .owned ∧ ∃ dst src, decode w = .ok (.clone dst src) ∧ dst.toNat = c) ∨
      ((t.ctx c).own = .borrowed ∧ ∃ d, decode w = .ok (.release d) ∧ d.toNat = c) := by
  rcases issueReading_cases h with ⟨i, hi, hends⟩ | ⟨e, _, rfl⟩
  · rcases hends.own_changed hne with ⟨ho, dst, src, rfl, hc⟩ | ⟨hb, d, rfl, hc⟩
    · exact .inl ⟨ho, dst, src, hi, hc⟩
    · exact .inr ⟨hb, d, hi, hc⟩
  · exact absurd rfl hne

@[simp] theorem portStore_ctx (s : State) (v : Word) (r : PortReg) (c : Nat) : (s.portStore v r).ctx c = s.ctx c := by
  cases r with
  | arg i => exact ctx_congr (State.setArg_cfg s i v) (State.setArg_ctxs s i v) c
  | cmd | status | res | reserved => rfl

/-- An input that changes an OWN is a command that does, racing or not, or a reset. -/
theorem Takes.own_changed {s t : State} {x : Input} {c : Nat} (h : Takes s x t)
    (hne : (t.ctx c).own ≠ (s.ctx c).own) :
    ((t.ctx c).own = .borrowed ∧ x = .platformReset) ∨
      ∃ w, ((∃ off, x = .portWrite off .bits32 w) ∨ ∃ stores, x = .cmdRaced w stores) ∧
        (((t.ctx c).own = .owned ∧ ∃ dst src, decode w = .ok (.clone dst src) ∧ dst.toNat = c) ∨
          ((t.ctx c).own = .borrowed ∧ ∃ d, decode w = .ok (.release d) ∧ d.toNat = c)) := by
  cases h with
  | command _ hu => exact .inr ⟨_, .inl ⟨_, rfl⟩, issueReading_own_changed hu hne⟩
  | @raced w stores u pick hu =>
    have hown := issueReading_own_changed (c := c) (t := u) hu hne
    exact .inr ⟨w, .inr ⟨stores, rfl⟩, hown⟩
  | portWrite => simp at hne
  | portRead | memWrite8 | memWrite32 | memRead32 | reclaim => exact absurd rfl hne
  | platformReset => exact .inl ⟨congrArg Ctx.own (ctx_of_reset (cfg := s.cfg) (t := s.platformReset) rfl rfl c), rfl⟩

/-- Settles O48, by the inputs that change an OWN (`Takes.own_changed`). -/
theorem ownershipChangesOnlyByCloneReleaseReset : Obligations.OwnershipChangesOnlyByCloneReleaseReset := by
  intro s t x rest c _ _ hin ht hne
  rcases step_cases ht with ⟨hnil, _⟩ | ⟨x', rest', hin', htakes⟩
  · simp [hin] at hnil
  · obtain ⟨rfl, rfl⟩ : x = x' ∧ rest = rest' := by simpa [hin] using hin'
    rcases htakes.own_changed hne with ⟨hb, rfl⟩ | ⟨w, hx, ⟨ho, dst, src, hw, hc⟩ | ⟨hb, d, hw, hc⟩⟩
    · exact .inr ⟨hb, .inl rfl⟩
    · exact .inl ⟨ho, w, dst, src, hw, hc, hx⟩
    · exact .inr ⟨hb, .inr ⟨w, d, hw, hc, hx⟩⟩

/-! ## SEALED and the handshake record -/

theorem sealed_setRes (s : State) (v0 v1 v2 v3 : Word) :
    State.sealed { s with res0 := v0, res1 := v1, res2 := v2, res3 := v3 } = s.sealed := rfl

theorem hs_setRes (s : State) (v0 v1 v2 v3 : Word) :
    State.hs { s with res0 := v0, res1 := v1, res2 := v2, res3 := v3 } = s.hs := rfl

/-- What a finishing command but HS_NEW does to the handshake: SEALED is set at most, by HS_SERIALIZE, and a sealed
record stays (10_state.md R46). -/
theorem commandDone_handshake {s : State} {i : Instr} (hi : i ≠ .hsNew)
    (hpass : firstError (commandChecks s i) = none) :
    ((commandDone s i).sealed = s.sealed ∨ i = .hsSerialize ∧ (commandDone s i).sealed = true) ∧
      (s.sealed = true → (commandDone s i).hs = s.hs) := by
  cases i with
  | hsNew => exact absurd rfl hi
  | hsSerialize => exact ⟨.inr ⟨rfl, rfl⟩, fun _ => rfl⟩
  | hsSet | hsDeserialize =>
    have hunsealed : s.sealed = false := firstError_none.1 hpass (isSealed s) (by simp [commandChecks])
    exact ⟨.inl rfl, fun hsealed => by simp [hunsealed] at hsealed⟩
  | pack c lp rp =>
    have hkept : (commandDone s (.pack c lp rp)).sealed = s.sealed ∧ (commandDone s (.pack c lp rp)).hs = s.hs := by
      simp only [commandDone]
      split
      · simp [packedControl_eq]
      · exact ⟨rfl, rfl⟩
    exact ⟨.inl hkept.1, fun _ => hkept.2⟩
  | release c =>
    have hkept : (released c.toNat s).sealed = s.sealed ∧ (released c.toNat s).hs = s.hs := by simp [released_eq]
    exact ⟨.inl hkept.1, fun _ => hkept.2⟩
  | setWord | setLength | clone | bind | setPayload | setFrameId | setChunkId | setTotalChunks | setFrameDeadline =>
    exact ⟨.inl rfl, fun _ => rfl⟩
  | _ => exact ⟨.inl (sealed_setRes s _ _ _ _), fun _ => hs_setRes s _ _ _ _⟩

theorem Ends.handshake {p s t : State} {i : Instr} (h : Ends p s i t) :
    (i = .hsNew ∧ (t.sealed = s.sealed ∨ t.sealed = false)) ∨
      ((t.sealed = s.sealed ∨ i = .hsSerialize ∧ t.err = 0 ∧ t.sealed = true) ∧ (s.sealed = true → t.hs = s.hs)) := by
  cases h with
  | failed | allocFailed | cloned => exact .inr ⟨.inl rfl, fun _ => rfl⟩
  | finished _ hpass =>
    by_cases hi : i = .hsNew
    · exact .inl ⟨hi, .inr (by rw [hi]; rfl)⟩
    · obtain ⟨hsealed, hrecord⟩ := commandDone_handshake hi hpass
      exact .inr ⟨hsealed.imp_right fun ⟨hser, hset⟩ => ⟨hser, rfl, hset⟩, hrecord⟩

/-- Settles O49, by what a command does to the handshake (`Ends.handshake`). -/
theorem sealedChangesAsListed : Obligations.SealedChangesAsListed := by
  intro s t i ht
  rcases (exec_ends ht).handshake with ⟨rfl, hsealed⟩ | ⟨hsealed, hrecord⟩
  · refine ⟨fun h0 h1 => ?_, fun _ _ => rfl, fun _ _ => rfl⟩
    simp [h0, h1] at hsealed
  · refine ⟨fun h0 h1 => ?_, fun h0 h1 => ?_, fun h0 hne => absurd (hrecord h0) hne⟩
    · obtain ⟨hi, herr, _⟩ := hsealed.resolve_left (by simp [h0, h1])
      exact ⟨hi, herr⟩
    · simp [h0, h1] at hsealed

/-! ## Word 2 by index and as the frame deadline -/

/-- With the index 2 GET_WORD is GET_FRAMEDEADLINE (10_state.md R37). -/
theorem exec_getWord_two {s : State} (h : s.arg0 = 2) (c : Byte) :
    exec (.getWord c) s = exec (.getFrameDeadline c) s := by
  have hnat : s.arg0.toNat = 2 := by simp [h]
  have hchecks : firstError (commandChecks s (.getWord c)) = firstError (commandChecks s (.getFrameDeadline c)) := by
    simp [commandChecks, firstError, badIndex, noCtx, hnat]
  have hdone : commandDone s (.getWord c) = commandDone s (.getFrameDeadline c) := by
    simp only [commandDone, withHdrField, hnat, slice_whole]
  rw [exec_eq_complete s _ (by simp), exec_eq_complete s _ (by simp), complete, complete, hchecks, hdone]

/-- With the index 2 and one value SET_WORD and SET_FRAMEDEADLINE end alike (10_state.md R37). -/
theorem setWord_two_agrees {s s' t u : State} {c : Byte} (hcfg : s'.cfg = s.cfg) (hctxs : s'.ctxs = s.ctxs)
    (hmem : s'.mem = s.mem) (hk : s.arg0 = 2) (hv : s'.arg0 = s.arg1) (ht : exec (.setWord c) s = .next t)
    (hu : exec (.setFrameDeadline c) s' = .next u) : t.err = u.err ∧ ∀ x, t.byteAt x = u.byteAt x := by
  have hnat : s.arg0.toNat = 2 := by simp [hk]
  have haddr : s'.hdrAddr c.toNat 2 = s.hdrAddr c.toNat 2 := by simp [State.hdrAddr, ctx_congr hcfg hctxs]
  have hchecks : firstError (commandChecks s (.setWord c)) = firstError (commandChecks s' (.setFrameDeadline c)) := by
    simp [commandChecks, firstError, badIndex, noCtx, noHdr, unmapped, hnat, haddr, hcfg]
  rw [exec_eq_complete _ _ (by simp)] at ht hu
  rcases complete_cases ht with ⟨e, he, rfl⟩ | ⟨he, rfl⟩ <;>
    rcases complete_cases hu with ⟨e', he', rfl⟩ | ⟨he', rfl⟩ <;> rw [hchecks, he'] at he
  · obtain rfl : e' = e := by simpa using he
    exact ⟨rfl, byteAt_congr hcfg.symm hmem.symm⟩
  · cases he
  · cases he
  · refine ⟨rfl, byteAt_congr hcfg.symm ?_⟩
    simp [commandDone, hnat, haddr, hcfg, hmem, hv]

/-- Settles O33. -/
theorem deadlineAndTimestampShareWordTwo : Obligations.DeadlineAndTimestampShareWordTwo := by
  intro s t u c v
  exact ⟨fun h => exec_getWord_two h c, setWord_two_agrees rfl rfl rfl rfl rfl⟩

/-! ## The register port -/

/-- A CMD write runs the command it decodes to. -/
theorem step_of_cmdWrite {s : State} {w : Word} {rest : List Input}
    (hin : s.inputs = .portWrite 0x00 .bits32 w :: rest) : step s = issue w { s with inputs := rest } := by
  unfold step
  rw [hin]
  rfl

theorem step_of_portWrite {s : State} {off : BitVec 6} {v : Word} {rest : List Input}
    (hin : s.inputs = .portWrite off .bits32 v :: rest) (halign : off.toNat % 4 = 0) (hreg : portReg off ≠ .cmd) :
    step s = .next (State.portStore { s with inputs := rest } v (portReg off)) := by
  have hok : portAccessOk off .bits32 = true := (portAccessOk_iff _ _).2 ⟨rfl, halign⟩
  simp only [step, hin, takeInput, hok, hreg, if_true, if_false]

theorem step_of_portRead {s : State} {off : BitVec 6} {rest : List Input}
    (hin : s.inputs = .portRead off .bits32 :: rest) (halign : off.toNat % 4 = 0) :
    step s = .next { s with inputs := rest, hostReads := s.portValue (portReg off) :: s.hostReads } := by
  have hok : portAccessOk off .bits32 = true := (portAccessOk_iff _ _).2 ⟨rfl, halign⟩
  have hvalue : State.portValue { s with inputs := rest } (portReg off) = s.portValue (portReg off) := by
    cases portReg off with
    | cmd | status | reserved => rfl
    | arg i | res i => match i with | 0 | 1 | 2 | 3 => rfl
  simp only [step, hin, takeInput, hok, if_true, State.recordRead, hvalue]

/-- Settles O6. -/
theorem stepRunsDecodedCommand : Obligations.StepRunsDecodedCommand := by
  intro s w i rest hin hw
  rw [step_of_cmdWrite hin, issue, hw]

/-- Settles O8. -/
theorem statusWriteClearsAnyErrOnly : Obligations.StatusWriteClearsAnyErrOnly := by
  intro s v rest hin
  rw [step_of_portWrite hin (by decide) (by decide)]
  have hbit : (s.anyErr && !(slice v 9 9 == 1)) = if v.toNat / 2 ^ 9 % 2 = 1 then false else s.anyErr := by
    simp only [← slice_bit_eq_one v 9]
    by_cases h : slice v 9 9 = 1
    · rw [if_pos h, h]
      simp
    · rw [if_neg h, beq_false_of_ne h]
      simp
  rw [← hbit]
  rfl

/-- STATUS as the sum of its fields (10_state.md R27). -/
theorem statusWord_eq (s : State) :
    s.statusWord =
      BitVec.ofNat 32 (s.err.toNat + (if s.sealed then 2 ^ 8 else 0) + if s.anyErr then 2 ^ 9 else 0) := by
  cases hs : s.sealed <;> cases ha : s.anyErr <;> simp [State.statusWord, hs, ha]

/-- Settles O9: each offset with the register that stands there. -/
theorem portReadsReturnRegisters : Obligations.PortReadsReturnRegisters := by
  intro s rest off v hmem hin
  rw [← statusWord_eq] at hmem
  have hread : off.toNat % 4 = 0 ∧ s.portValue (portReg off) = v := by
    simp only [List.mem_cons, List.not_mem_nil, or_false, Prod.mk.injEq] at hmem
    rcases hmem with ⟨rfl, rfl⟩ | ⟨rfl, rfl⟩ | ⟨rfl, rfl⟩ | ⟨rfl, rfl⟩ | ⟨rfl, rfl⟩ | ⟨rfl, rfl⟩ | ⟨rfl, rfl⟩ |
      ⟨rfl, rfl⟩ | ⟨rfl, rfl⟩ | ⟨rfl, rfl⟩ | ⟨rfl, rfl⟩ | ⟨rfl, rfl⟩ | ⟨rfl, rfl⟩ | ⟨rfl, rfl⟩ | ⟨rfl, rfl⟩ |
      ⟨rfl, rfl⟩ <;> exact ⟨by decide, rfl⟩
  rw [step_of_portRead hin hread.1, hread.2]

/-- From offset 0x28 on every offset is reserved (10_state.md R21). -/
theorem portReg_reserved : ∀ {off : BitVec 6}, 0x28 ≤ off.toNat → portReg off = .reserved := by decide

/-- From offset 0x18 on the port ignores writes (10_state.md R22). -/
theorem portStore_ignored {off : BitVec 6} (h : 0x18 ≤ off.toNat) (s : State) (v : Word) :
    portReg off ≠ .cmd ∧ s.portStore v (portReg off) = s := by
  have hread_only : (∃ i, portReg off = .res i) ∨ portReg off = .reserved := by
    revert off
    decide
  rcases hread_only with ⟨i, hr⟩ | hr <;> simp [hr, State.portStore]

/-- Settles O10. -/
theorem portIgnoresAndRefuses : Obligations.PortIgnoresAndRefuses := by
  intro s off width v rest
  refine ⟨fun hw halign hoff hin => ?_, fun hw halign hoff hin => ?_, fun hbad => ?_⟩
  · subst hw
    obtain ⟨hreg, hstore⟩ := portStore_ignored hoff { s with inputs := rest } v
    rw [step_of_portWrite hin halign hreg, hstore]
  · subst hw
    rw [step_of_portRead hin halign, portReg_reserved hoff]
    rfl
  · have hok : portAccessOk off width = false := by rw [← Bool.not_eq_true, portAccessOk_iff]; exact hbad
    exact ⟨fun hin => by simp [step, hin, takeInput, hok], fun hin => by simp [step, hin, takeInput, hok]⟩

/-- Settles O11. -/
theorem argWritesAreStored : Obligations.ArgWritesAreStored := by
  intro s v rest
  refine ⟨fun hin => ?_, fun hin => ?_, fun hin => ?_, fun hin => ?_⟩ <;>
    exact step_of_portWrite hin (by decide) (by decide)

/-! ## Reset -/

/-- Settles O40. -/
theorem resetMeetsInvariant : Obligations.ResetMeetsInvariant := by
  have hreset : ∀ cfg : Config, cfg.wellFormed = true → (State.resetOf cfg).Inv = true := fun cfg h =>
    (inv_iff _).2 (invariant_of_reset h rfl rfl (by simp [State.resetOf]) (.nil cfg) rfl)
  exact ⟨hreset _ (by decide), hreset⟩

theorem zero_get : ∀ {k : Nat}, k < 12 → Handshake.zero.get k = 0 := by decide

/-- Settles O41. -/
theorem resetValuesAsListed : Obligations.ResetValuesAsListed := by
  rintro cfg s _ rfl
  refine ⟨rfl, rfl, rfl, rfl, rfl, rfl, rfl, rfl, rfl, rfl, rfl, rfl, ?_, fun c hc => ⟨?_, fun k _ => ?_⟩, ?_, rfl⟩
  · simp [State.resetOf]
  · simp [State.resetOf, hc, Ctx.fresh, winAddr]
  · simp [byteAt_def, State.resetOf, Memory.read, unlistedByte]
  · exact fun k hk => zero_get hk

end Sys2Proof.Machine

/-! # Proofs: the memory family (20_memory.md)

What the checks of a region say of its addresses, what a window byte is, and which bytes and which of the allocator's
records a command touches; every proof about a command goes through `exec_ends`. -/

namespace Sys2Proof.Machine

/-! ## Regions, address by address -/

/-- Two regions are disjoint when no address of the second is in the first. -/
theorem overlaps_eq_false_iff (r q : Region) :
    overlaps r q = false ↔ ∀ k < q.2, ¬(r.1 ≤ q.1 + k ∧ q.1 + k < r.1 + r.2) := by
  simp only [overlaps, ← Bool.not_eq_true, Bool.and_eq_true, decide_eq_true_eq]
  constructor
  · intro h k hk hin
    omega
  · intro h hshared
    -- the first shared address is the larger of the two bases
    have hfirst := h (r.1 - q.1)
    omega

theorem overlaps_comm (r q : Region) : overlaps r q = overlaps q r := by
  rw [Bool.eq_iff_iff]
  simp only [overlaps, Bool.and_eq_true, decide_eq_true_eq]
  omega

/-- The check of a region on its bounds is Mapped at each of its addresses (20_memory.md R64); an empty region has no
address, so there its base has to be in the address space. -/
theorem mappedRegion_iff {cfg : Config} {a n : Nat} (h : 0 < n ∨ a ≤ 2 ^ 32) :
    mappedRegion cfg (a, n) = true ↔ MappedAll cfg a n := by
  simp only [mappedRegion, Bool.and_eq_true, decide_eq_true_eq, List.all_eq_true, Bool.not_eq_true',
    overlaps_eq_false_iff]
  constructor
  · rintro ⟨hfits, hholes⟩ k hk
    exact ⟨by omega, fun r hr => hholes r hr k hk⟩
  · intro hall
    refine ⟨?_, fun r hr k hk => (hall k hk).2 r hr⟩
    by_cases hn : 0 < n
    · have hlast := (hall (n - 1) (by omega)).1
      omega
    · omega

/-- The regions an answer may not overlap, kind by kind (20_memory.md R70 (c)). -/
theorem forall_mem_allocBusy (s : State) (P : Region → Prop) :
    (∀ r ∈ allocBusy s, P r) ↔
      P (windowRegion s.cfg) ∧ (∀ l ∈ s.live, P (l.base.toNat, l.size.toNat)) ∧
        ∀ x ∈ s.ctxs, P (x.hbase.toNat, 20) ∧ P (x.paddr.toNat, x.plen.toNat) := by
  simp only [allocBusy, List.forall_mem_cons, List.forall_mem_append, List.forall_mem_map, List.forall_mem_flatMap,
    List.not_mem_nil, false_implies, implies_true, and_true]

/-- The check of an answer is the contract of 20_memory.md R70 at each address. -/
theorem allocOk_iff (s : State) (n a : Word) : allocOk s n a = true ↔ AllocContract s n.toNat a.toNat := by
  simp only [allocOk, Bool.and_eq_true, decide_eq_true_eq, List.all_eq_true, Bool.not_eq_true',
    mappedRegion_iff (cfg := s.cfg) (n := n.toNat) (.inr (Nat.le_of_lt a.isLt)), overlaps_comm (a.toNat, n.toNat),
    forall_mem_allocBusy, overlaps_eq_false_iff]
  constructor
  · rintro ⟨⟨hfits, hmapped⟩, hwin, hlive, hctxs⟩
    exact ⟨hfits, fun k hk => ⟨hmapped k hk, hwin k hk, fun l hl => hlive l hl k hk,
      fun x hx => ⟨(hctxs x hx).1 k hk, (hctxs x hx).2 k hk⟩⟩⟩
  · rintro ⟨hfits, hat⟩
    refine ⟨⟨hfits, fun k hk => ?_⟩, fun k hk => ?_, fun l hl k hk => ?_,
      fun x hx => ⟨fun k hk => ?_, fun k hk => ?_⟩⟩ <;>
      obtain ⟨hmapped, hwin, hlive, hctxs⟩ := hat k hk
    exacts [hmapped, hwin, hlive l hl, (hctxs x hx).1, (hctxs x hx).2]

/-- Settles O56. -/
theorem regionChecksAreByteWise : Obligations.RegionChecksAreByteWise :=
  ⟨fun _ _ _ hn => mappedRegion_iff (.inl hn), allocOk_iff⟩

/-! ## Window bytes -/

theorem inRegion_iff (r : Region) (a : Nat) : inRegion r a = true ↔ r.1 ≤ a ∧ a < r.1 + r.2 := by
  simp [inRegion]

/-- Byte k of a window is reserved from k = 20 on (10_state.md R33). -/
theorem reservedByte_window {cfg : Config} {c k : Nat} (hc : c < cfg.nCtx) (hk : k < 32) :
    reservedByte cfg (winAddr cfg c + k) = decide (20 ≤ k) := by
  have hoffset : (winAddr cfg c + k - cfg.winBase) % 32 = k := by
    simp only [winAddr]
    omega
  have hinside : inRegion (windowRegion cfg) (winAddr cfg c + k) = true := by
    rw [inRegion_iff]
    simp only [winAddr]
    omega
  rw [reservedByte, hinside, hoffset, Bool.true_and]

/-- Outside the windows no byte is reserved. -/
theorem reservedByte_outside {cfg : Config} {a : Nat}
    (h : ¬(cfg.winBase ≤ a ∧ a < cfg.winBase + 32 * cfg.nCtx)) : reservedByte cfg a = false := by
  have hout : inRegion (windowRegion cfg) a = false := by
    rwa [← Bool.not_eq_true, inRegion_iff]
  rw [reservedByte, hout, Bool.false_and]

theorem storedByte_of_not_reserved {cfg : Config} {a : Nat} {b : Byte} (h : reservedByte cfg a = false) :
    storedByte cfg a b = b :=
  if_neg (by simp [h])

/-- Every window byte is mapped (20_memory.md R64). -/
theorem mappedAt_window {cfg : Config} (h : cfg.wellFormed = true) {c k : Nat} (hc : c < cfg.nCtx) (hk : k < 32) :
    MappedAt cfg (winAddr cfg c + k) := by
  have hfits := winAddr_fits h hc
  refine ⟨by omega, fun r hr hin => ?_⟩
  simp only [Config.wellFormed, Config.winMapped, Bool.and_eq_true, List.all_eq_true, Bool.or_eq_true, beq_iff_eq,
    decide_eq_true_eq] at h
  have hapart := h.2 r hr
  simp only [winAddr] at hin
  omega

/-- One byte stored by another agent at a mapped address (20_memory.md R64). -/
theorem step_of_memWrite8 {s : State} {a : Word} {b : Byte} {rest : List Input}
    (hin : s.inputs = .memWrite8 a b :: rest) (hmapped : MappedAt s.cfg a.toNat) :
    step s = .next (State.writeBytes { s with inputs := rest } a.toNat [b]) := by
  have hregion : mappedRegion s.cfg (a.toNat, 1) = true :=
    (mappedRegion_iff (.inl Nat.one_pos)).2 fun k hk => by
      obtain rfl : k = 0 := by omega
      exact hmapped
  simp only [step, hin, takeInput, agentAccess, hregion, if_true]

/-- All that storing one byte does to the bytes that agents read (20_memory.md R67). -/
theorem byteAt_writeByte (s : State) {a : Nat} (b : Byte) (ha : a < 2 ^ 32) (hm : Memory.wf s.mem = true) (x : Nat) :
    (s.writeBytes a [b]).byteAt x = if x = a then storedByte s.cfg x b else s.byteAt x := by
  rw [byteAt_writeBytes s a [b] (by simpa using ha) hm]
  by_cases hx : x = a
  · subst hx
    simp
  · have hout : ¬(a ≤ x ∧ x < a + [b].length) := by
      simp only [List.length_singleton]
      omega
    rw [if_neg hout, if_neg hx]

/-- A store to a reserved window byte leaves the memory as it is (20_memory.md R67). -/
theorem writeByte_reserved {s : State} {a : Nat} (h : reservedByte s.cfg a = true) (b : Byte) :
    (s.writeBytes a [b]).mem = s.mem := by
  simp [storeBytes, storeByte, h]

/-- Settles O57: a window byte is mapped, and reserved exactly from byte 20 on. -/
theorem windowBytesAsListed : Obligations.WindowBytesAsListed := by
  intro s c k b rest hs hc hk hin
  have hinv := (inv_iff s).1 hs
  change s.inputs = .memWrite8 (BitVec.ofNat 32 (winAddr s.cfg c + k)) b :: rest at hin
  have hmapped := mappedAt_window hinv.cfg hc hk
  have haddr : (BitVec.ofNat 32 (winAddr s.cfg c + k)).toNat = winAddr s.cfg c + k :=
    Nat.mod_eq_of_lt hmapped.1
  have hreserved := reservedByte_window hc hk
  have hstep := step_of_memWrite8 hin (by rwa [haddr])
  rw [haddr] at hstep
  have hbyte := byteAt_writeByte { s with inputs := rest } b hmapped.1 hinv.mem.canonical
  refine ⟨_, hstep, rfl, fun hkept => ?_, fun hignored => ⟨?_, ?_⟩, fun x hx => ?_⟩
  · have hstored : reservedByte s.cfg (winAddr s.cfg c + k) = false := hreserved.trans (by simpa using hkept)
    exact (hbyte _).trans ((if_pos rfl).trans (storedByte_of_not_reserved hstored))
  · exact byteAt_reserved _ (hreserved.trans (decide_eq_true hignored))
  · exact writeByte_reserved (hreserved.trans (decide_eq_true hignored)) b
  · exact (hbyte x).trans (if_neg hx)

end Sys2Proof.Machine

namespace Sys2Proof.Machine

/-! ## The allocator's trace -/

theorem allocTrace_setRes (s : State) (v0 v1 v2 v3 : Word) :
    State.allocTrace { s with res0 := v0, res1 := v1, res2 := v2, res3 := v3 } = s.allocTrace := rfl

/-- Of the commands that finish, CLONE apart, only RELEASE of an OWNED context calls the allocator (20_memory.md
R71). -/
theorem commandDone_allocTrace (s : State) (i : Instr) :
    (commandDone s i).allocTrace = s.allocTrace ∨
      ∃ c : Byte, i = .release c ∧ (s.ctx c.toNat).own = .owned ∧
        (commandDone s i).allocTrace = .free (s.ctx c.toNat).paddr :: s.allocTrace := by
  cases i with
  | release c =>
    have htrace : (commandDone s (.release c)).allocTrace =
        if (s.ctx c.toNat).own = .owned then .free (s.ctx c.toNat).paddr :: s.allocTrace else s.allocTrace := by
      simp only [commandDone, released_eq]
    by_cases ho : (s.ctx c.toNat).own = .owned
    · exact .inr ⟨c, rfl, ho, htrace.trans (if_pos ho)⟩
    · exact .inl (htrace.trans (if_neg ho))
  | pack c lp rp =>
    simp only [commandDone]
    split
    · exact .inl (by rw [packedControl_eq])
    · exact .inl rfl
  | setWord | setLength | clone | bind | setPayload | setFrameId | setChunkId | setTotalChunks | setFrameDeadline
  | hsNew | hsSet | hsSerialize | hsDeserialize => exact .inl rfl
  | _ => exact .inl (allocTrace_setRes s _ _ _ _)

/-- Settles O50, by the ways a command can end (`Ends`). -/
theorem allocatorCallsAsListed : Obligations.AllocatorCallsAsListed := by
  intro s t i ht
  cases exec_ends ht with
  | failed => exact .inl rfl
  | finished => exact (commandDone_allocTrace s i).imp_right .inl
  | @allocFailed dst src => exact .inr (.inr ⟨dst, src, none, rfl, rfl⟩)
  | @cloned dst src a => exact .inr (.inr ⟨dst, src, some a, rfl, rfl⟩)

/-! ## The bytes a command leaves alone -/

/-- A byte outside a stored header word is as before (00_scope.md R13, R14). -/
theorem byteAt_setHdr_other (s : State) {c w : Nat} (v : Word) {x : Nat}
    (h : ¬(s.hdrAddr c w ≤ x ∧ x < s.hdrAddr c w + 4)) : (s.setHdr c w v).byteAt x = s.byteAt x :=
  byteAt_writeWord_other s _ v (by omega)

/-- A control PACK leaves every byte outside word 0, and outside word 1 on the lparam path, alone (41_packet.md
R161). -/
theorem packedControl_byteAt_other (s : State) {c : Nat} {lp rp : Bool} {x : Nat}
    (h0 : ¬(s.hdrAddr c 0 ≤ x ∧ x < s.hdrAddr c 0 + 4))
    (h1 : lp = true → ¬(s.hdrAddr c 1 ≤ x ∧ x < s.hdrAddr c 1 + 4)) :
    (packedControl c lp rp s).byteAt x = s.byteAt x := by
  have hword0 := byteAt_setHdr_other s (controlWord s.arg0) h0
  rw [packedControl_eq]
  cases lp with
  | false => exact hword0
  | true => exact (byteAt_setHdr_other (s.setHdr c 0 (controlWord s.arg0)) s.arg1 (h1 rfl)).trans hword0

/-- RELEASE leaves every byte but bytes 0 to 19 of its window alone (41_packet.md R166). -/
theorem released_byteAt_other (s : State) {c x : Nat}
    (h : ¬(winAddr s.cfg c ≤ x ∧ x < winAddr s.cfg c + hdrSize)) : (released c s).byteAt x = s.byteAt x := by
  rw [released_eq]
  exact byteAt_writeBytes_other s _ _ (by simp only [List.length_replicate]; omega)

/-- CLONE leaves every byte outside its destination's window and its buffer alone (41_packet.md R163). -/
theorem cloned_byteAt_other {p s s1 : State} {dst src : Nat} {a : Word} {x : Nat}
    (hwin : ¬(winAddr s.cfg dst ≤ x ∧ x < winAddr s.cfg dst + hdrSize))
    (hbuf : ¬(a.toNat ≤ x ∧ x < a.toNat + (s.ctx src).plen.toNat)) :
    (cloned dst src a p s s1).byteAt x = s1.byteAt x := by
  have hheader := byteAt_writeBytes_other s1 (winAddr s.cfg dst) (s.readBytes (s.ctx src).hbase.toNat hdrSize)
    (x := x) (by simp only [readBytes_length]; omega)
  exact (byteAt_writeBytes_other _ a.toNat (p.readBytes (s.ctx src).paddr.toNat (s.ctx src).plen.toNat)
    (by simp only [readBytes_length]; omega)).trans hheader

theorem byteAt_setErr (s : State) (e : BitVec 8) (x : Nat) : State.byteAt { s with err := e } x = s.byteAt x := rfl

theorem byteAt_setRes (s : State) (v0 v1 v2 v3 : Word) (x : Nat) :
    State.byteAt { s with res0 := v0, res1 := v1, res2 := v2, res3 := v3 } x = s.byteAt x := rfl

/-- A command that finishes, CLONE apart, leaves every byte outside its store regions alone (20_memory.md R66). -/
theorem commandDone_byteAt_other (s t : State) (i : Instr) {x : Nat}
    (h : ∀ r ∈ storeRegions s t i, ¬(r.1 ≤ x ∧ x < r.1 + r.2)) : (commandDone s i).byteAt x = s.byteAt x := by
  cases i with
  | setWord | setFrameId | setChunkId | setTotalChunks | setFrameDeadline =>
    exact byteAt_setHdr_other s _ (h _ (.head _))
  | pack c lp rp =>
    have h0 := h _ (.head _)
    simp only [commandDone]
    split
    · rename_i hf
      exact packedControl_byteAt_other s h0 fun hlp =>
        h (s.hdrAddr c.toNat 1, 4) (List.mem_cons_of_mem _ (by simp [hf, hlp]))
    · exact byteAt_setHdr_other s _ h0
  | release => exact released_byteAt_other s (h _ (.head _))
  | hsSerialize =>
    have hrecord : s.hs.bytes.length = hsSize := rfl
    have hout := h _ (.head _)
    exact byteAt_writeBytes_other s s.arg0.toNat s.hs.bytes (by rw [hrecord]; omega)
  | setLength | clone | bind | setPayload | hsNew | hsSet | hsDeserialize => rfl
  | _ => exact byteAt_setRes s _ _ _ _ x

/-- The regions of a CLONE that finishes: its destination's window and the buffer it was given (41_packet.md R163). -/
theorem storeRegions_cloned {p s s1 : State} {dst src : Byte} {a : Word} {e : BitVec 8}
    (h : dst.toNat < s1.ctxs.length) :
    storeRegions s { cloned dst.toNat src.toNat a p s s1 with err := e } (.clone dst src) =
      [(winAddr s.cfg dst.toNat, hdrSize), (a.toNat, (s.ctx src.toNat).plen.toNat)] := by
  have hctx : State.ctx { cloned dst.toNat src.toNat a p s s1 with err := e } dst.toNat =
      ⟨BitVec.ofNat 32 (winAddr s.cfg dst.toNat), a, (s.ctx src.toNat).plen, (s.ctx src.toNat).plen, .owned⟩ :=
    ctx_setCtx_same _ _ h
  simp only [storeRegions, hctx]

/-- Settles O47, by the ways a command can end (`Ends`): an error changes no byte, and a command that finishes none
outside its regions. -/
theorem commandsStoreOnlyToTheirRegions : Obligations.CommandsStoreOnlyToTheirRegions := by
  intro s t i x hs ht h
  cases exec_ends ht with
  | failed | allocFailed => rfl
  | finished =>
    have hout := h.resolve_left (by simp [okCode])
    rw [byteAt_setErr]
    exact commandDone_byteAt_other s _ i hout
  | @cloned dst src a answers draws hpass =>
    have hinv := (inv_iff s).1 hs
    have hdst : dst.toNat < s.ctxs.length := by
      rw [hinv.count, ← noCtx_passed]
      exact firstError_none.1 hpass _ (.head _)
    have hout : ∀ r ∈ [(winAddr s.cfg dst.toNat, hdrSize), (a.toNat, (s.ctx src.toNat).plen.toNat)],
        ¬(r.1 ≤ x ∧ x < r.1 + r.2) := by
      rw [← storeRegions_cloned (p := s) (e := okCode)
        (s1 := s.granted dst.toNat (s.ctx src.toNat).plen a answers draws) hdst]
      exact h.resolve_left (by simp [okCode])
    rw [byteAt_setErr, cloned_byteAt_other (hout _ (.head _)) (hout _ (.tail _ (.head _)))]
    rfl

end Sys2Proof.Machine

namespace Sys2Proof.Machine

/-! ## CLONE on a free draw -/

/-- CLONE asks for a buffer exactly where no check of 41_packet.md R163 fails. -/
theorem cloneChecks_passed (dst src : Byte) (s : State) :
    firstError (cloneChecks dst src s) = none ↔
      dst.toNat < s.cfg.nCtx ∧ src.toNat < s.cfg.nCtx ∧ src ≠ dst ∧ (s.ctx dst.toNat).own = .borrowed ∧
        MappedAll s.cfg (s.ctx src.toNat).hbase.toNat 20 ∧
        MappedAll s.cfg (s.ctx src.toNat).paddr.toNat (s.ctx src.toNat).plen.toNat := by
  have hmapped (a : Word) (n : Nat) : (unmapped s a.toNat n).1 = false ↔ MappedAll s.cfg a.toNat n := by
    rw [← mappedRegion_iff (.inr (Nat.le_of_lt a.isLt))]
    simp [unmapped]
  simp only [firstError_none, cloneChecks, List.forall_mem_cons, noCtx_passed, isOwned_passed, hmapped,
    beq_eq_false_iff_ne, List.not_mem_nil, false_implies, implies_true, and_true, hdrSize]

/-- With no answer lined up, a request comes to Fail or to Ok(a) under the contract, and one value is drawn
(20_memory.md R70). -/
theorem requestAlloc_drawn {s : State} (h : s.allocAnswers = []) (owner : Nat) (n : Word) :
    requestAlloc s owner n =
        .failed { s with draws := s.draws + 1, allocTrace := .alloc n none :: s.allocTrace } ∨
      ∃ a, allocOk s n a = true ∧
        requestAlloc s owner n = .granted a (s.granted owner n a s.allocAnswers (s.draws + 1)) := by
  unfold requestAlloc
  rw [h]
  cases Config.allocDraw s.draws with
  | none => exact .inl rfl
  | some a =>
    cases hok : allocOk s n a with
    | false => exact .inl (by simp [hok, allocFailed])
    | true => exact .inr ⟨a, hok, by simp [hok, allocGranted, State.granted]⟩

theorem readBytes_getD (s : State) {n k : Nat} (a : Nat) (hk : k < n) :
    (s.readBytes a n).getD k 0 = s.byteAt (a + k) := by
  have hlen : k < (s.readBytes a n).length := by rwa [readBytes_length]
  rw [List.getD_eq_getElem _ _ hlen, readBytes_getElem s n a k hlen]

/-- A copy of n bytes: each target byte, none of them reserved, takes its source's byte, every other one stays. -/
theorem byteAt_writeBytes_readBytes (t p : State) {a n : Nat} (b : Nat) (ha : a + n ≤ 2 ^ 32)
    (hm : Memory.wf t.mem = true) (hr : ∀ k < n, reservedByte t.cfg (a + k) = false) (y : Nat) :
    (t.writeBytes a (p.readBytes b n)).byteAt y =
      if a ≤ y ∧ y < a + n then p.byteAt (b + (y - a)) else t.byteAt y := by
  rw [byteAt_writeBytes t a _ (by rwa [readBytes_length]) hm, readBytes_length]
  by_cases hy : a ≤ y ∧ y < a + n
  · have hk : y - a < n := by omega
    have hfree := hr (y - a) hk
    rw [Nat.add_sub_cancel' hy.1] at hfree
    rw [if_pos hy, if_pos hy, storedByte_of_not_reserved hfree, readBytes_getD p b hk]
  · rw [if_neg hy, if_neg hy]

/-- All that CLONE does to the bytes that agents read: the header in the destination's window, the payload in the
buffer, which the contract keeps off the windows (41_packet.md R163, 20_memory.md R70 (c)). -/
theorem cloned_byteAt {s : State} (h : Invariant s) (p : State) {dst src : Nat} {a : Word}
    (answers : List (Option Word)) (draws : Nat) (hc : dst < s.cfg.nCtx)
    (hok : AllocContract s (s.ctx src).plen.toNat a.toNat) (y : Nat) :
    (cloned dst src a p s (s.granted dst (s.ctx src).plen a answers draws)).byteAt y =
      if winAddr s.cfg dst ≤ y ∧ y < winAddr s.cfg dst + 20 then
        s.byteAt ((s.ctx src).hbase.toNat + (y - winAddr s.cfg dst))
      else if a.toNat ≤ y ∧ y < a.toNat + (s.ctx src).plen.toNat then
        p.byteAt ((s.ctx src).paddr.toNat + (y - a.toNat))
      else s.byteAt y := by
  obtain ⟨hfits, hat⟩ := hok
  have hwinFits := winAddr_fits h.cfg hc
  have hheader := byteAt_writeBytes_readBytes (s.granted dst (s.ctx src).plen a answers draws) s
    (a := winAddr s.cfg dst) (n := hdrSize) (s.ctx src).hbase.toNat (by simp only [hdrSize]; omega) h.mem.canonical
    (fun k (hk : k < 20) => (reservedByte_window hc (by omega)).trans (by simpa using hk)) y
  have hpayload := byteAt_writeBytes_readBytes
    ((s.granted dst (s.ctx src).plen a answers draws).writeBytes (winAddr s.cfg dst)
      (s.readBytes (s.ctx src).hbase.toNat hdrSize)) p
    (s.ctx src).paddr.toNat hfits
    (storeBytes_wf s.cfg _ (by simp only [readBytes_length, hdrSize]; omega) h.mem.canonical)
    (fun k hk => reservedByte_outside (hat k hk).2.1) y
  have hbytes := hpayload.trans (congrArg _ hheader)
  by_cases hwin : winAddr s.cfg dst ≤ y ∧ y < winAddr s.cfg dst + 20
  · have hbuf : ¬(a.toNat ≤ y ∧ y < a.toNat + (s.ctx src).plen.toNat) := by
      intro hin
      refine (hat (y - a.toNat) (by omega)).2.1 ?_
      simp only [winAddr] at hwin
      omega
    rw [if_pos hwin]
    exact hbytes.trans ((if_neg hbuf).trans (if_pos hwin))
  · rw [if_neg hwin]
    exact hbytes.trans (congrArg _ (if_neg hwin))

/-- CLONE under the answer Fail (41_packet.md R163). -/
theorem exec_clone_failed {s s1 : State} {dst src : Byte} (hpass : firstError (cloneChecks dst src s) = none)
    (hr : requestAlloc s dst.toNat (s.ctx src.toNat).plen = .failed s1) :
    exec (.clone dst src) s = .next (s1.failed ErrCode.alloc.code) := by
  show cloneReading dst src s s = _
  simp only [cloneReading, hpass, hr, raise]

/-- CLONE under the answer Ok(a) (41_packet.md R163). -/
theorem exec_clone_granted {s s1 : State} {dst src : Byte} {a : Word}
    (hpass : firstError (cloneChecks dst src s) = none)
    (hr : requestAlloc s dst.toNat (s.ctx src.toNat).plen = .granted a s1) :
    exec (.clone dst src) s = .next { cloned dst.toNat src.toNat a s s s1 with err := okCode } := by
  show cloneReading dst src s s = _
  simp only [cloneReading, hpass, hr, finish]

/-- CLONE, written as one update (41_packet.md R163). -/
theorem cloned_eq (dst src : Nat) (a : Word) (p s s1 : State) :
    cloned dst src a p s s1 =
      { s1 with
        mem := (cloned dst src a p s s1).mem
        ctxs := s1.ctxs.set dst
          ⟨BitVec.ofNat 32 (winAddr s.cfg dst), a, (s.ctx src).plen, (s.ctx src).plen, .owned⟩ } := rfl

/-- Settles O27, by the two things a request without a lined-up answer can come to (`requestAlloc_drawn`). -/
theorem cloneCompletesOnFreeDraw : Obligations.CloneCompletesOnFreeDraw := by
  intro s dst src hs hdst hsrc hne hborrowed hheader hpayload hanswers
  have hinv := (inv_iff s).1 hs
  have hpass := (cloneChecks_passed dst src s).2 ⟨hdst, hsrc, hne, hborrowed, hheader, hpayload⟩
  rcases requestAlloc_drawn hanswers dst.toNat (s.ctx src.toNat).plen with hfail | ⟨a, hok, hgrant⟩
  · exact ⟨_, exec_clone_failed hpass hfail, .inl rfl⟩
  · have hcontract := (allocOk_iff s _ a).1 hok
    have hbytes := cloned_byteAt hinv s s.allocAnswers (s.draws + 1) hdst hcontract
    refine ⟨_, exec_clone_granted hpass hgrant, .inr ⟨a, _, rfl, hcontract, ?_, fun y => ?_⟩⟩
    · rw [cloned_eq]
      rfl
    · rw [byteAt_setErr]
      exact hbytes y

end Sys2Proof.Machine

/-! # Proofs: the encoding family (30_encoding.md)

A word is its six slots, a row of the opcode map checks them one by one, and a command is its row and its fields; from
these come the decoder's law (`decode_eq_ok_iff`) and what a word that selects no command does. Then the ARG and RES
registers of a command, and the accesses of the host and the datapath. -/

namespace Sys2Proof

/-! ## The slots of a word -/

/-- Bits 31:26, RP, LP, SRC, CTX and OP of a word (30_encoding.md R90). -/
def slots (w : Word) : BitVec 6 × BitVec 1 × BitVec 1 × Byte × Byte × Byte :=
  (w.extractLsb' 26 6, w.extractLsb' 25 1, w.extractLsb' 24 1, w.extractLsb' 16 8, w.extractLsb' 8 8,
    w.extractLsb' 0 8)

theorem slot_toNat (w : Word) (lo n : Nat) : (w.extractLsb' lo n).toNat = w.toNat / 2 ^ lo % 2 ^ n := by
  rw [BitVec.extractLsb'_toNat, Nat.shiftRight_eq_div_pow]

/-- The slots make up the word. -/
theorem slots_inj {v w : Word} : slots v = slots w ↔ v = w := by
  refine ⟨fun h => BitVec.eq_of_toNat_eq ?_, congrArg slots⟩
  have hv := v.isLt
  have hw := w.isLt
  simp only [slots, Prod.mk.injEq, ← BitVec.toNat_inj, slot_toNat] at h
  omega

theorem slots_and (v w : Word) :
    slots (v &&& w) =
      ((slots v).1 &&& (slots w).1, (slots v).2.1 &&& (slots w).2.1, (slots v).2.2.1 &&& (slots w).2.2.1,
        (slots v).2.2.2.1 &&& (slots w).2.2.2.1, (slots v).2.2.2.2.1 &&& (slots w).2.2.2.2.1,
        (slots v).2.2.2.2.2 &&& (slots w).2.2.2.2.2) := by
  simp only [slots, BitVec.extractLsb'_and]

/-- The fields of any word, well formed or not (30_encoding.md R90). -/
def wordFields (w : Word) : Fields :=
  ⟨w.toNat % 256, w.toNat / 2 ^ 8 % 256, w.toNat / 2 ^ 16 % 256, w.toNat / 2 ^ 24 % 2, w.toNat / 2 ^ 25 % 2⟩

theorem opField_toNat (w : Word) : (opField w).toNat = (wordFields w).op := rfl

/-- A word with bits 31:26 clear is Enc of its fields (30_encoding.md R95). -/
theorem wordFields_enc {w : Word} (h : w.toNat < 2 ^ 26) : (wordFields w).enc = w.toNat := by
  simp only [wordFields, Fields.enc]
  omega

/-- The fields of a word fit their slots, so only R91 to R94 decide whether they are well formed. -/
theorem wordFields_wellFormed_iff (w : Word) :
    (wordFields w).wellFormed = true ↔
      (wordFields w).opAssigned = true ∧ ((wordFields w).usesCtx = true ∨ (wordFields w).ctx = 0) ∧
        ((wordFields w).op = 0x14 ∨ (wordFields w).src = 0) ∧
        ((wordFields w).op = 0x12 ∨ (wordFields w).lp = 0) ∧
        ((wordFields w).op = 0x12 ∨ (wordFields w).rp = 0) := by
  have hctx : (wordFields w).ctx < 256 := Nat.mod_lt _ (by decide)
  have hsrc : (wordFields w).src < 256 := Nat.mod_lt _ (by decide)
  have hlp : (wordFields w).lp < 2 := Nat.mod_lt _ (by decide)
  have hrp : (wordFields w).rp < 2 := Nat.mod_lt _ (by decide)
  simp [Fields.wellFormed, Fields.ctxOk, Fields.srcOk, Fields.lpOk, Fields.rpOk, hctx, hsrc, hlp, hrp, and_assoc]

/-! ## The rows of the opcode map -/

/-- What a row's mask holds over a slot: nothing where the command uses it, every bit where it has to be 0
(30_encoding.md R94). -/
def slotMask (n : Nat) (used : Bool) : BitVec n := if used then 0 else BitVec.allOnes n

theorem and_slotMask_eq_zero {n : Nat} (x : BitVec n) (used : Bool) :
    x &&& slotMask n used = 0 ↔ used = true ∨ x.toNat = 0 := by
  cases used <;> simp [slotMask, ← BitVec.toNat_inj]

/-- A row masks the slots that R91 to R93 leave its opcode unused, and matches its opcode. -/
theorem opTable_slots : ∀ r ∈ opTable,
    slots r.mask =
        (slotMask 6 false, slotMask 1 (r.op.toNat == 0x12), slotMask 1 (r.op.toNat == 0x12),
          slotMask 8 (r.op.toNat == 0x14), slotMask 8 (Fields.usesCtx ⟨r.op.toNat, 0, 0, 0, 0⟩),
          BitVec.allOnes 8) ∧
      slots r.pattern = (0, 0, 0, 0, 0, r.op) := by
  intro r hr
  fin_cases hr <;> decide

/-- The assigned opcodes are those of the rows (30_encoding.md R99, R100). -/
theorem opAssigned_iff (f : Fields) : f.opAssigned = true ↔ ∃ r ∈ opTable, r.op.toNat = f.op := by
  simp [Fields.opAssigned, Fields.usesCtx, Fields.isHandshake, opTable, headerRows, packetRows, frameRows,
    handshakeRows]
  omega

/-- No two rows have one opcode. -/
theorem opTable_op_inj {r q : OpRow} (hr : r ∈ opTable) (hq : q ∈ opTable) (h : r.op = q.op) : r = q :=
  List.inj_on_of_nodup_map (f := OpRow.op) (by decide) hr hq h

/-- A row's check of a word with its opcode is that bits 31:26 are 0 and the fields well formed (30_encoding.md R94). -/
theorem and_mask_eq_pattern_iff {r : OpRow} (hr : r ∈ opTable) {w : Word} (hop : r.op.toNat = (wordFields w).op) :
    w &&& r.mask = r.pattern ↔ w.toNat < 2 ^ 26 ∧ (wordFields w).wellFormed = true := by
  obtain ⟨hmask, hpattern⟩ := opTable_slots r hr
  have hassigned : (wordFields w).opAssigned = true := (opAssigned_iff _).2 ⟨r, hr, hop⟩
  have huses : Fields.usesCtx ⟨r.op.toNat, 0, 0, 0, 0⟩ = (wordFields w).usesCtx := by rw [hop]; rfl
  have hopSlot : w.extractLsb' 0 8 = r.op := by
    rw [← BitVec.toNat_inj, slot_toNat, hop]
    simp [wordFields]
  have htop : w.toNat / 2 ^ 26 % 2 ^ 6 = 0 ↔ w.toNat < 2 ^ 26 := by
    have := w.isLt
    omega
  rw [← slots_inj, slots_and, hmask, hpattern, huses, hop, wordFields_wellFormed_iff]
  simp only [slots, Prod.mk.injEq, and_slotMask_eq_zero, slot_toNat, hopSlot, BitVec.and_allOnes, hassigned, htop,
    beq_iff_eq, Bool.false_eq_true, false_or, true_and, and_true]
  exact and_congr_right fun _ => ⟨fun ⟨hrp, hlp, hsrc, hctx⟩ => ⟨hctx, hsrc, hlp, hrp⟩,
    fun ⟨hctx, hsrc, hlp, hrp⟩ => ⟨hrp, hlp, hsrc, hctx⟩⟩

/-! ## Commands, their rows and their fields -/

/-- The command that a row gives fields. -/
def OpRow.instr (r : OpRow) (f : Fields) : Instr :=
  r.build (BitVec.ofNat 8 f.ctx) (BitVec.ofNat 8 f.src) (f.lp == 1) (f.rp == 1)

theorem build_eq_instr (r : OpRow) (w : Word) :
    r.build (ctxField w) (srcField w) (lpField w) (rpField w) = r.instr (wordFields w) := by
  have hctx : ctxField w = BitVec.ofNat 8 (wordFields w).ctx := by
    simp [ctxField, wordFields, ← BitVec.toNat_inj]
  have hsrc : srcField w = BitVec.ofNat 8 (wordFields w).src := by
    simp [srcField, wordFields, ← BitVec.toNat_inj]
  rw [hctx, hsrc]
  rfl

/-- The fields of a row's command: those its opcode uses, 0 for the others (30_encoding.md R91 to R93). -/
theorem build_fields : ∀ r ∈ opTable, ∀ (c s : Byte) (lp rp : Bool),
    (r.build c s lp rp).fields =
      ⟨r.op.toNat, if Fields.usesCtx ⟨r.op.toNat, 0, 0, 0, 0⟩ then c.toNat else 0,
        if r.op.toNat = 0x14 then s.toNat else 0, if r.op.toNat = 0x12 then lp.toNat else 0,
        if r.op.toNat = 0x12 then rp.toNat else 0⟩ := by
  intro r hr c s lp rp
  fin_cases hr <;> rfl

/-- A value kept only where p holds is itself, if it is 0 elsewhere. -/
theorem ite_zero_eq {p : Prop} [Decidable p] {n : Nat} (h : p ∨ n = 0) : (if p then n else 0) = n := by
  split
  · rfl
  · rename_i hp
    exact (h.resolve_left hp).symm

theorem mod_two_beq_toNat (n : Nat) : (n % 2 == 1).toNat = n % 2 := by
  rcases Nat.mod_two_eq_zero_or_one n with h | h <;> rw [h] <;> rfl

/-- A row's command has the fields it was given, where they are a word's and well formed. -/
theorem instr_fields {r : OpRow} (hr : r ∈ opTable) {w : Word} (hop : r.op.toNat = (wordFields w).op)
    (hwf : (wordFields w).wellFormed = true) : (r.instr (wordFields w)).fields = wordFields w := by
  obtain ⟨_, hctx, hsrc, hlp, hrp⟩ := (wordFields_wellFormed_iff w).1 hwf
  have huses : Fields.usesCtx ⟨r.op.toNat, 0, 0, 0, 0⟩ = (wordFields w).usesCtx := by rw [hop]; rfl
  have hctxByte : (BitVec.ofNat 8 (wordFields w).ctx).toNat = (wordFields w).ctx := Nat.mod_mod _ 256
  have hsrcByte : (BitVec.ofNat 8 (wordFields w).src).toNat = (wordFields w).src := Nat.mod_mod _ 256
  have hlpBit : ((wordFields w).lp == 1).toNat = (wordFields w).lp := mod_two_beq_toNat _
  have hrpBit : ((wordFields w).rp == 1).toNat = (wordFields w).rp := mod_two_beq_toNat _
  rw [OpRow.instr, build_fields r hr, huses, hop, hctxByte, hsrcByte, hlpBit, hrpBit, ite_zero_eq hctx,
    ite_zero_eq hsrc, ite_zero_eq hlp, ite_zero_eq hrp]

/-- Every command is its row's, given its own fields (30_encoding.md R99). -/
theorem exists_row (i : Instr) : ∃ r ∈ opTable, r.op.toNat = i.fields.op ∧ r.instr i.fields = i := by
  have hfind : ∃ r, opTable.find? (fun r => r.op.toNat == i.fields.op) = some r ∧ r.instr i.fields = i := by
    cases i with
    | pack c lp rp => exact ⟨_, rfl, by cases lp <;> cases rp <;> simp [OpRow.instr, Instr.fields]⟩
    | hsNew | hsGet | hsSet | hsSerialize | hsDeserialize => exact ⟨_, rfl, rfl⟩
    | _ => exact ⟨_, rfl, by simp only [OpRow.instr, Instr.fields, BitVec.ofNat_toNat, BitVec.setWidth_eq]⟩
  obtain ⟨r, hr, hinstr⟩ := hfind
  exact ⟨r, List.mem_of_find?_eq_some hr, by simpa using List.find?_some hr, hinstr⟩

/-! ## The decoder -/

/-- What the search of the opcode map finds (30_encoding.md R96). -/
theorem find?_opTable_eq_some_iff {w : Word} {r : OpRow} :
    opTable.find? (fun q => q.op == opField w) = some r ↔ r ∈ opTable ∧ r.op.toNat = (wordFields w).op := by
  rw [← opField_toNat, BitVec.toNat_inj]
  constructor
  · intro h
    exact ⟨List.mem_of_find?_eq_some h, by simpa using List.find?_some h⟩
  · rintro ⟨hr, hop⟩
    have hfound : (opTable.find? fun q => q.op == opField w).isSome := List.find?_isSome.2 ⟨r, hr, by simp [hop]⟩
    obtain ⟨q, hq⟩ := Option.isSome_iff_exists.1 hfound
    have hqop : q.op = opField w := by simpa using List.find?_some hq
    rw [hq, opTable_op_inj (List.mem_of_find?_eq_some hq) hr (hqop.trans hop.symm)]

/-- A word selects a command through the row of its opcode, where bits 31:26 are 0 and its fields are well formed
(30_encoding.md R96). -/
theorem decode_eq_ok_iff_row {w : Word} {i : Instr} :
    decode w = .ok i ↔
      ∃ r ∈ opTable, r.op.toNat = (wordFields w).op ∧ w.toNat < 2 ^ 26 ∧ (wordFields w).wellFormed = true ∧
        r.instr (wordFields w) = i := by
  have hrow {r : OpRow} (hr : r ∈ opTable) (hop : r.op.toNat = (wordFields w).op) :
      decode w = .ok i ↔
        w.toNat < 2 ^ 26 ∧ (wordFields w).wellFormed = true ∧ r.instr (wordFields w) = i := by
    simp only [decode, find?_opTable_eq_some_iff.2 ⟨hr, hop⟩, and_mask_eq_pattern_iff hr hop, build_eq_instr]
    rw [← and_assoc]
    split
    · rename_i h
      simp only [h, true_and, Except.ok.injEq]
    · rename_i h
      simp only [h, false_and, reduceCtorEq]
  constructor
  · intro h
    cases hfind : opTable.find? (fun q => q.op == opField w) with
    | none => simp [decode, hfind] at h
    | some r =>
      obtain ⟨hr, hop⟩ := find?_opTable_eq_some_iff.1 hfind
      exact ⟨r, hr, hop, (hrow hr hop).1 h⟩
  · rintro ⟨r, hr, hop, h⟩
    exact (hrow hr hop).2 h

/-- Every command's fields are well formed, and its word is their Enc with nothing lost (30_encoding.md R94, R95). -/
theorem encodedFields : ∀ i : Instr, Laws.EncodedFields.Statement i
  | .getFlag c => Laws.EncodedFields.getFlag c
  | .getType c => Laws.EncodedFields.getType c
  | .getExtType c => Laws.EncodedFields.getExtType c
  | .getSeqNo c => Laws.EncodedFields.getSeqNo c
  | .getAckSeqNo c => Laws.EncodedFields.getAckSeqNo c
  | .getMsgBoundary c => Laws.EncodedFields.getMsgBoundary c
  | .getMsgOrderFlag c => Laws.EncodedFields.getMsgOrderFlag c
  | .getMsgSeq c => Laws.EncodedFields.getMsgSeq c
  | .getWord c => Laws.EncodedFields.getWord c
  | .setWord c => Laws.EncodedFields.setWord c
  | .getLength c => Laws.EncodedFields.getLength c
  | .setLength c => Laws.EncodedFields.setLength c
  | .pack c lp rp => Laws.EncodedFields.pack c lp rp
  | .getPacketVector c => Laws.EncodedFields.getPacketVector c
  | .clone dst src => Laws.EncodedFields.clone dst src
  | .bind c => Laws.EncodedFields.bind c
  | .setPayload c => Laws.EncodedFields.setPayload c
  | .release c => Laws.EncodedFields.release c
  | .getCtxState c => Laws.EncodedFields.getCtxState c
  | .getFrameId c => Laws.EncodedFields.getFrameId c
  | .setFrameId c => Laws.EncodedFields.setFrameId c
  | .getChunkId c => Laws.EncodedFields.getChunkId c
  | .setChunkId c => Laws.EncodedFields.setChunkId c
  | .getTotalChunks c => Laws.EncodedFields.getTotalChunks c
  | .setTotalChunks c => Laws.EncodedFields.setTotalChunks c
  | .getFrameDeadline c => Laws.EncodedFields.getFrameDeadline c
  | .setFrameDeadline c => Laws.EncodedFields.setFrameDeadline c
  | .hsNew => Laws.EncodedFields.hsNew
  | .hsGet => Laws.EncodedFields.hsGet
  | .hsSet => Laws.EncodedFields.hsSet
  | .hsSerialize => Laws.EncodedFields.hsSerialize
  | .hsDeserialize => Laws.EncodedFields.hsDeserialize

/-- A command's word gives its fields back, and its bits 31:26 are 0. -/
theorem wordFields_encode (i : Instr) : wordFields (encode i) = i.fields ∧ (encode i).toNat < 2 ^ 26 := by
  obtain ⟨hwf, henc⟩ := encodedFields i
  simp only [Fields.wellFormed, Fields.ctxOk, Fields.srcOk, Fields.lpOk, Fields.rpOk, Bool.and_eq_true,
    decide_eq_true_eq] at hwf
  obtain ⟨⟨⟨⟨hassigned, hctx, _⟩, hsrc, _⟩, hlp, _⟩, hrp, _⟩ := hwf
  obtain ⟨r, _, hr⟩ := (opAssigned_iff _).1 hassigned
  have hop := r.op.isLt
  rw [hr] at hop
  rw [wordFields, henc, Fields.enc]
  refine ⟨?_, by omega⟩
  have hslots : i.fields = ⟨i.fields.op, i.fields.ctx, i.fields.src, i.fields.lp, i.fields.rp⟩ := rfl
  rw [hslots, Fields.mk.injEq]
  refine ⟨?_, ?_, ?_, ?_, ?_⟩ <;> simp only <;> omega

/-- The decoder inverts Enc (30_encoding.md R95): a word selects a command exactly when it is that command's word. -/
theorem decode_eq_ok_iff {w : Word} {i : Instr} : decode w = .ok i ↔ w = encode i := by
  rw [decode_eq_ok_iff_row]
  constructor
  · rintro ⟨r, hr, hop, hw, hwf, rfl⟩
    apply BitVec.eq_of_toNat_eq
    rw [(encodedFields _).2, instr_fields hr hop hwf, wordFields_enc hw]
  · rintro rfl
    obtain ⟨hfields, hw⟩ := wordFields_encode i
    obtain ⟨r, hr, hop, hinstr⟩ := exists_row i
    rw [hfields]
    exact ⟨r, hr, hop, hw, (encodedFields i).1, hinstr⟩

theorem decode_encode (i : Instr) : decode (encode i) = .ok i := decode_eq_ok_iff.2 rfl

/-- Settles O1: the fields by `encodedFields`, the decoder by `decode_eq_ok_iff`. -/
theorem decodeInvertsEncode : Obligations.DecodeInvertsEncode := by
  intro i w
  obtain ⟨hwf, henc⟩ := encodedFields i
  exact ⟨hwf, henc, decode_eq_ok_iff⟩

/-- Settles O2, by the row of the word's opcode (`decode_eq_ok_iff_row`). -/
theorem wordDecodesIffWellFormed : Obligations.WordDecodesIffWellFormed := by
  intro w
  constructor
  · rintro ⟨i, hi⟩
    obtain ⟨r, _, _, hw, hwf, _⟩ := decode_eq_ok_iff_row.1 hi
    exact ⟨hw, hwf⟩
  · rintro ⟨hw, hwf⟩
    obtain ⟨r, hr, hop⟩ := (opAssigned_iff _).1 ((wordFields_wellFormed_iff w).1 hwf).1
    exact ⟨_, decode_eq_ok_iff_row.2 ⟨r, hr, hop, hw, hwf, rfl⟩⟩

/-- Settles O5: each word is its command's. -/
theorem listedWordsDecode : Obligations.ListedWordsDecode := by
  unfold Obligations.ListedWordsDecode
  simp only [decode_eq_ok_iff]
  decide

/-- A word with an unassigned opcode selects no command (30_encoding.md R96, R100). -/
theorem decode_unassigned {w : Word} (h : (wordFields w).opAssigned = false) :
    decode w = .error (.unassigned (opField w)) := by
  have hnone : opTable.find? (fun r => r.op == opField w) = none := by
    rw [Option.eq_none_iff_forall_ne_some]
    intro r hr
    rw [(opAssigned_iff _).2 ⟨r, find?_opTable_eq_some_iff.1 hr⟩] at h
    cases h
  rw [decode, hnone]

end Sys2Proof

namespace Sys2Proof.Machine

/-! ## Words that select no command -/

/-- A CMD write of a word that decodes to nothing (30_encoding.md R96). -/
theorem issue_of_decode_error {w : Word} {e : DecodeError} (h : decode w = .error e) (s : State) :
    issue w s = .next (State.failed { s with cmd := w } 0x01) := by
  rw [issue, h]
  rfl

/-- Settles O3: the listed opcodes are in no row. -/
theorem reservedOpcodesRaiseIllegal : Obligations.ReservedOpcodesRaiseIllegal := by
  rintro s w _ rfl hop
  have hunassigned : (wordFields w).opAssigned = false := by
    have hvalue : (wordFields w).op = w.toNat % 256 := rfl
    rw [← Bool.not_eq_true]
    simp only [Fields.opAssigned, Fields.usesCtx, Fields.isHandshake, Bool.or_eq_true, Bool.and_eq_true,
      decide_eq_true_eq]
    omega
  exact issue_of_decode_error (decode_unassigned hunassigned) s

/-- Settles O4. The step is the CMD write (`step_of_cmdWrite`). -/
theorem undecodedWordRaisesIllegal : Obligations.UndecodedWordRaisesIllegal := by
  intro s w e rest hin hw
  rw [step_of_cmdWrite hin, issue_of_decode_error hw]

end Sys2Proof.Machine

namespace Sys2Proof.Machine

/-! ## The expansion of a command -/

/-- The offset of a register is aligned, and the register stands there (10_state.md R21). -/
theorem portReg_offset (r : PortReg) : r.offset.toNat % 4 = 0 ∧ portReg r.offset = r := by
  cases r with
  | cmd | status | reserved => decide
  | arg i | res i => revert i; decide

/-- The state with other inputs to come. -/
def State.withInputs (s : State) (rest : List Input) : State := { s with inputs := rest }

/-- The state with operands in ARG registers, stored one after the other. -/
def State.setArgs (s : State) (writes : List (Fin 4 × Word)) : State :=
  writes.foldl (fun t p => t.setArg p.1 p.2) s

theorem setArg_withInputs (s : State) (i : Fin 4) (v : Word) (rest : List Input) :
    (s.withInputs rest).setArg i v = (s.setArg i v).withInputs rest := by
  match i with
  | 0 | 1 | 2 | 3 => rfl

theorem setArgs_withInputs (rest : List Input) : ∀ (writes : List (Fin 4 × Word)) (s : State),
    (s.withInputs rest).setArgs writes = (s.setArgs writes).withInputs rest
  | [], _ => rfl
  | (i, v) :: writes, s => by
    have ih := setArgs_withInputs rest writes (s.setArg i v)
    rwa [← setArg_withInputs] at ih

/-- A host write of an operand register (10_state.md R23). -/
theorem step_of_argWrite {s : State} {i : Fin 4} {v : Word} {rest : List Input}
    (hin : s.inputs = wr (.arg i) v :: rest) : step s = .next ((s.withInputs rest).setArg i v) := by
  obtain ⟨halign, hreg⟩ := portReg_offset (.arg i)
  rw [step_of_portWrite hin halign (by simp [hreg]), hreg]
  rfl

theorem run_succ_of_next {M : Host.Core} (k : Nat) {s t : M.State} (h : M.step s = .next t) :
    M.run (k + 1) s = M.run k t := by
  simp only [Host.Core.run, h]

theorem run_one (M : Host.Core) (s : M.State) : M.run 1 s = M.step s := by
  cases h : M.step s <;> simp only [Host.Core.run, h]

/-- The host's writes of operand registers, run one after the other. -/
theorem run_argWrites (k : Nat) (rest : List Input) : ∀ (writes : List (Fin 4 × Word)) (s : State),
    s.inputs = writes.map (fun p => wr (.arg p.1) p.2) ++ rest →
      Host.Core.run core (writes.length + k) s = Host.Core.run core k ((s.setArgs writes).withInputs rest)
  | [], s, hin => by
    have hkept : s.withInputs rest = s := by
      rw [show rest = s.inputs from hin.symm]
      rfl
    rw [List.length_nil, Nat.zero_add, ← setArgs_withInputs, hkept]
    rfl
  | (i, v) :: writes, s, hin => by
    have hstep := step_of_argWrite hin
    rw [setArg_withInputs] at hstep
    have htail := run_argWrites k rest writes ((s.setArg i v).withInputs _) rfl
    rw [setArgs_withInputs] at htail
    rw [List.length_cons, Nat.add_right_comm]
    exact (run_succ_of_next (M := core) _ hstep).trans htail

/-- Settles O12: the operand writes, then the CMD write of the command's word. -/
theorem expansionRunsCommand : Obligations.ExpansionRunsCommand := by
  intro s i operands rest hlen hin
  have hwrites : ((argsRead i).zip operands).length = operands.length := by
    rw [List.length_zip, hlen, Nat.min_self]
  have hstream : s.inputs =
      ((argsRead i).zip operands).map (fun p => wr (.arg p.1) p.2) ++ (wr .cmd (encode i) :: rest) := by
    rw [hin, expandCommand, List.map_zip_eq_zipWith, List.append_assoc]
    rfl
  have hrun := run_argWrites 1 (wr .cmd (encode i) :: rest) _ s hstream
  have hcmd : step ((s.setArgs ((argsRead i).zip operands)).withInputs (wr .cmd (encode i) :: rest)) =
      exec i { s.setArgs ((argsRead i).zip operands) with inputs := rest, cmd := encode i } := by
    rw [step_of_cmdWrite rfl, issue, decode_encode]
    rfl
  rw [hwrites] at hrun
  exact hrun.trans ((run_one core _).trans hcmd)

/-! ## The registers a command writes -/

/-- One RES register is that of another state; RES0 has to agree only where it is the one asked for. -/
theorem res_congr {s t : State} {j : Fin 4} (h0 : j = 0 → t.res0 = s.res0) (h1 : t.res1 = s.res1)
    (h2 : t.res2 = s.res2) (h3 : t.res3 = s.res3) : t.res j = s.res j := by
  match j with
  | 0 => exact h0 rfl
  | 1 => exact h1
  | 2 => exact h2
  | 3 => exact h3

/-- The same where the values written are named: a getter's value is never compared with what RES0 held. -/
theorem res_setRes (s : State) {v0 v1 v2 v3 : Word} {j : Fin 4} (h0 : j = 0 → v0 = s.res0)
    (h1 : j = 1 → v1 = s.res1) (h2 : v2 = s.res2) (h3 : v3 = s.res3) :
    State.res { s with res0 := v0, res1 := v1, res2 := v2, res3 := v3 } j = s.res j := by
  match j with
  | 0 => exact h0 rfl
  | 1 => exact h1 rfl
  | 2 => exact h2
  | 3 => exact h3

/-- A command that finishes writes no RES register but those listed for it (30_encoding.md R97). -/
theorem commandDone_res (s : State) {i : Instr} {j : Fin 4} (hj : j ∉ resWritten i) :
    (commandDone s i).res j = s.res j := by
  cases i with
  | pack c lp rp =>
    simp only [commandDone]
    split
    · rw [packedControl_eq]
      exact res_congr (fun _ => rfl) rfl rfl rfl
    · exact res_congr (fun _ => rfl) rfl rfl rfl
  | release c =>
    simp only [commandDone, released_eq]
    exact res_congr (fun _ => rfl) rfl rfl rfl
  | setWord | setLength | clone | bind | setPayload | setFrameId | setChunkId | setTotalChunks | setFrameDeadline
  | hsNew | hsSet => exact res_congr (fun _ => rfl) rfl rfl rfl
  | getPacketVector c =>
    match j with
    | 0 | 1 | 2 | 3 => simp [resWritten] at hj
  | getCtxState c =>
    exact res_setRes s (fun h => absurd (by simp [h, resWritten]) hj) (fun h => absurd (by simp [h, resWritten]) hj)
      rfl rfl
  | hsSerialize | hsDeserialize => exact res_congr (fun h => absurd (by simp [h, resWritten]) hj) rfl rfl rfl
  | _ => exact res_setRes s (fun h => absurd (by simp [h, resWritten]) hj) (fun _ => rfl) rfl rfl

/-- Settles O44, by the ways a command can end (`Ends`). -/
theorem commandsWriteOnlyListedResults : Obligations.CommandsWriteOnlyListedResults := by
  intro s t i ht
  cases exec_ends ht with
  | failed | allocFailed =>
    exact ⟨fun j _ => res_congr (fun _ => rfl) rfl rfl rfl, rfl, rfl, rfl, rfl, rfl, rfl, rfl, rfl⟩
  | cloned =>
    rw [cloned_eq]
    exact ⟨fun j _ => res_congr (fun _ => rfl) rfl rfl rfl, rfl, rfl, rfl, rfl, rfl, rfl, rfl, rfl⟩
  | finished =>
    obtain ⟨hcfg, hcmd, _, h0, h1, h2, h3, _, hinputs, _, hreads⟩ := commandDone_sameHostSide s i
    have herr (j : Fin 4) : State.res { commandDone s i with err := okCode } j = (commandDone s i).res j :=
      res_congr (fun _ => rfl) rfl rfl rfl
    exact ⟨fun j hj => (herr j).trans (commandDone_res s hj), hcmd, h0, h1, h2, h3, hcfg, hinputs, hreads⟩

end Sys2Proof.Machine

namespace Sys2Proof.Machine

/-! ## The registers a command reads -/

/-- The state with other values in the ARG registers. -/
def State.withArgs (s : State) (a : Fin 4 → Word) : State :=
  { s with arg0 := a 0, arg1 := a 1, arg2 := a 2, arg3 := a 3 }

theorem setArg_eq_withArgs (s : State) (j : Fin 4) (v : Word) :
    s.setArg j v = s.withArgs (Function.update s.arg j v) := by
  match j with
  | 0 | 1 | 2 | 3 => simp [State.setArg, State.withArgs, State.arg, Function.update]

/-- What comes of a request, in states with other ARG registers. -/
def AllocResult.withArgs (a : Fin 4 → Word) : AllocResult → AllocResult
  | .broken x => .broken x
  | .failed u => .failed (u.withArgs a)
  | .granted x u => .granted x (u.withArgs a)

/-- An outcome with other ARG registers. -/
def underArgs (a : Fin 4 → Word) : Host.Outcome State Fault Refusal → Host.Outcome State Fault Refusal
  | .next t => .next (t.withArgs a)
  | .fault f => .fault f
  | .refused r => .refused r

section

variable (s : State) (a : Fin 4 → Word)

/-- No check of a command reads an ARG register but those listed for it. -/
theorem commandChecks_withArgs {i : Instr} (h : ∀ k ∈ argsRead i, a k = s.arg k) :
    commandChecks (s.withArgs a) i = commandChecks s i := by
  have h0 (hk : 0 ∈ argsRead i) : s.arg0 = a 0 := (h 0 hk).symm
  have h1 (hk : 1 ∈ argsRead i) : s.arg1 = a 1 := (h 1 hk).symm
  have h2 (hk : 2 ∈ argsRead i) : s.arg2 = a 2 := (h 2 hk).symm
  have h3 (hk : 3 ∈ argsRead i) : s.arg3 = a 3 := (h 3 hk).symm
  cases i with
  | getWord | setWord | setLength | hsGet | hsSet =>
    simp only [commandChecks, h0 (.head _)]
    rfl
  | bind | setPayload | hsSerialize | hsDeserialize =>
    simp only [commandChecks, h0 (.head _), h1 (.tail _ (.head _))]
    rfl
  | pack c lp rp =>
    have hpayload : (isControl (a 0) && rp && pastTop s.arg2 s.arg3.toNat) =
        (isControl (a 0) && rp && pastTop (a 2) (a 3).toNat) := by
      cases rp with
      | false => simp only [Bool.and_false, Bool.false_and]
      | true => rw [h2 (by simp [argsRead]), h3 (by simp [argsRead])]
    simp only [commandChecks, h0 (.head _), hpayload]
    rfl
  | _ => rfl

/-- A control PACK reads ARG1 on the lparam path alone, ARG2 and ARG3 on the rparam path alone (41_packet.md R161). -/
theorem packedControl_withArgs (c : Nat) {lp rp : Bool} (h0 : s.arg0 = a 0) (h1 : lp = true → s.arg1 = a 1)
    (h2 : rp = true → s.arg2 = a 2) (h3 : rp = true → s.arg3 = a 3) :
    packedControl c lp rp (s.withArgs a) = (packedControl c lp rp s).withArgs a := by
  have ha0 : (s.withArgs a).arg0 = a 0 := rfl
  have ha1 : (s.withArgs a).arg1 = a 1 := rfl
  have ha2 : (s.withArgs a).arg2 = a 2 := rfl
  have ha3 : (s.withArgs a).arg3 = a 3 := rfl
  rw [packedControl_eq, packedControl_eq]
  cases lp with
  | true =>
    simp only [ha0, ha1, h0, h1]
    rfl
  | false =>
    cases rp with
    | true =>
      simp only [ha0, ha2, ha3, h0, h2, h3]
      rfl
    | false =>
      simp only [ha0, h0]
      rfl

/-- What a command does when it finishes depends on no ARG register but those listed for it, and carries all of them
through. -/
theorem commandDone_withArgs {i : Instr} (h : ∀ k ∈ argsRead i, a k = s.arg k) :
    commandDone (s.withArgs a) i = (commandDone s i).withArgs a := by
  have h0 (hk : 0 ∈ argsRead i) : s.arg0 = a 0 := (h 0 hk).symm
  have h1 (hk : 1 ∈ argsRead i) : s.arg1 = a 1 := (h 1 hk).symm
  have h2 (hk : 2 ∈ argsRead i) : s.arg2 = a 2 := (h 2 hk).symm
  have h3 (hk : 3 ∈ argsRead i) : s.arg3 = a 3 := (h 3 hk).symm
  cases i with
  | getWord | setLength | setFrameId | setChunkId | setTotalChunks | setFrameDeadline | hsGet | hsSerialize
  | hsDeserialize =>
    simp only [commandDone, h0 (.head _)]
    rfl
  | setWord | bind | setPayload | hsSet =>
    simp only [commandDone, h0 (.head _), h1 (.tail _ (.head _))]
    rfl
  | pack c lp rp =>
    have hf : (s.withArgs a).arg0 = s.arg0 := (h0 (.head _)).symm
    simp only [commandDone, hf]
    split
    · exact packedControl_withArgs s a c.toNat (h0 (.head _)) (fun hlp => h1 (by simp [argsRead, hlp]))
        (fun hrp => h2 (by simp [argsRead, hrp])) (fun hrp => h3 (by simp [argsRead, hrp]))
    · rfl
  | release c =>
    simp only [commandDone, released_eq]
    rfl
  | _ => rfl

/-- The allocator's answer depends on no ARG register. -/
theorem requestAlloc_withArgs (owner : Nat) (n : Word) :
    requestAlloc (s.withArgs a) owner n = (requestAlloc s owner n).withArgs a := by
  have hanswers : (s.withArgs a).allocAnswers = s.allocAnswers := rfl
  have hdraws : (s.withArgs a).draws = s.draws := rfl
  have hok (x : Word) : allocOk (s.withArgs a) n x = allocOk s n x := rfl
  unfold requestAlloc
  rw [hanswers, hdraws]
  cases s.allocAnswers with
  | cons answer rest =>
    cases answer with
    | none => rfl
    | some x => cases h : allocOk s n x <;> simp only [hok, h] <;> rfl
  | nil =>
    cases Config.allocDraw s.draws with
    | none => rfl
    | some x => cases h : allocOk s n x <;> simp only [hok, h] <;> rfl

theorem cloned_withArgs (dst src : Nat) (x : Word) (s1 : State) :
    cloned dst src x (s.withArgs a) (s.withArgs a) (s1.withArgs a) = (cloned dst src x s s s1).withArgs a := by
  have hctx : (s.withArgs a).ctx src = s.ctx src := rfl
  have hread : ∀ n b, (s.withArgs a).readBytes b n = s.readBytes b n :=
    readBytes_congr (s := s) (t := s.withArgs a) fun _ => rfl
  simp only [cloned, hread, hctx]
  rfl

theorem cloneReading_withArgs (dst src : Byte) :
    cloneReading dst src (s.withArgs a) (s.withArgs a) = underArgs a (cloneReading dst src s s) := by
  have hchecks : cloneChecks dst src (s.withArgs a) = cloneChecks dst src s := rfl
  have hctx : (s.withArgs a).ctx src.toNat = s.ctx src.toNat := rfl
  simp only [cloneReading, hchecks, hctx, requestAlloc_withArgs]
  cases firstError (cloneChecks dst src s) with
  | some err => rfl
  | none =>
    cases requestAlloc s dst.toNat (s.ctx src.toNat).plen with
    | broken x => rfl
    | failed u => rfl
    | granted x u =>
      simp only [AllocResult.withArgs, cloned_withArgs]
      rfl

/-- A command does the same under other values of the ARG registers it does not read. -/
theorem exec_withArgs {i : Instr} (h : ∀ k ∈ argsRead i, a k = s.arg k) :
    exec i (s.withArgs a) = underArgs a (exec i s) := by
  by_cases hi : ∃ dst src, i = .clone dst src
  · obtain ⟨dst, src, rfl⟩ := hi
    exact cloneReading_withArgs s a dst src
  · have hi' : ∀ dst src, i ≠ .clone dst src := fun dst src e => hi ⟨dst, src, e⟩
    rw [exec_eq_complete _ i hi', exec_eq_complete _ i hi', commandChecks_withArgs s a h, commandDone_withArgs s a h,
      complete, complete]
    cases firstError (commandChecks s i) <;> rfl

end

/-- Settles O45: a command commutes with a change of the ARG registers it does not read (`exec_withArgs`), and it writes
none of them (`commandsWriteOnlyListedResults`). -/
theorem commandsReadOnlyListedArgs : Obligations.CommandsReadOnlyListedArgs := by
  intro s t i j v hj ht
  obtain ⟨_, _, h0, h1, h2, h3, _⟩ := commandsWriteOnlyListedResults s t i ht
  have hargs : t.arg = s.arg := by
    funext k
    match k with
    | 0 => exact h0
    | 1 => exact h1
    | 2 => exact h2
    | 3 => exact h3
  have hkept : ∀ k ∈ argsRead i, Function.update s.arg j v k = s.arg k := fun k hk =>
    Function.update_of_ne (ne_of_mem_of_not_mem hk hj) v s.arg
  rw [setArg_eq_withArgs s, setArg_eq_withArgs t, hargs, exec_withArgs s _ hkept, ht]
  rfl

/-! ## The accesses of the host and the datapath -/

theorem step_of_input {s : State} {x : Input} {rest : List Input} (hin : s.inputs = x :: rest) :
    step s = takeInput x { s with inputs := rest } := by
  simp only [step, hin]

theorem mappedAll_one_iff (cfg : Config) (a : Nat) : MappedAll cfg a 1 ↔ MappedAt cfg a :=
  ⟨fun h => h 0 Nat.one_pos, fun h k hk => by
    obtain rfl : k = 0 := by omega
    exact h⟩

/-- An access to mapped bytes goes through (20_memory.md R64). -/
theorem agentAccess_mapped {s : State} {a n : Nat} (hn : 0 < n) (h : MappedAll s.cfg a n) (done : State) :
    agentAccess s a n done = .next done :=
  if_pos ((mappedRegion_iff (.inl hn)).2 h)

/-- An access with a byte that is not mapped is a fault (notes/assumptions/9.md). -/
theorem agentAccess_unmapped {s : State} {a n : Nat} (hn : 0 < n) (h : ¬MappedAll s.cfg a n) (done : State) :
    agentAccess s a n done = .fault (.agentAccess a) :=
  if_neg fun hregion => h ((mappedRegion_iff (.inl hn)).1 hregion)

/-- Settles O60, access by access. -/
theorem agentAccessesReadAndStore : Obligations.AgentAccessesReadAndStore := by
  intro s a v b rest hs
  have hmem : Memory.wf s.mem = true := ((inv_iff s).1 hs).mem.canonical
  refine ⟨fun hin => ⟨fun hun => ?_, fun hmapped => ?_⟩, fun hin => ⟨fun hun => ?_, fun hmapped => ?_⟩,
    fun hin => ⟨fun hun => ?_, fun hmapped => ?_⟩⟩
  · rw [← mappedAll_one_iff] at hun
    rw [step_of_input hin]
    exact agentAccess_unmapped Nat.one_pos hun _
  · exact ⟨_, step_of_memWrite8 hin hmapped, rfl, byteAt_writeByte { s with inputs := rest } b hmapped.1 hmem⟩
  · rw [step_of_input hin]
    exact agentAccess_unmapped (by decide) hun _
  · have hlast := (hmapped 3 (by decide)).1
    refine ⟨_, (step_of_input hin).trans (agentAccess_mapped (by decide) hmapped _), rfl, ?_⟩
    exact byteAt_writeWord { s with inputs := rest } a.toNat v (by omega) hmem
  · rw [step_of_input hin]
    exact agentAccess_unmapped (by decide) hun _
  · rw [step_of_input hin]
    exact agentAccess_mapped (by decide) hmapped _

end Sys2Proof.Machine

/-! # Proofs: the wire header family (40_wireheader.md)

What each check says in the words of the rules, what a command does once its checks are decided, and header words as the
values of their bytes; the accessors then differ in the bits they name. -/

namespace Sys2Proof.Machine

/-! ## The first error, check by check -/

/-- E_CTX (30_encoding.md R91). -/
theorem firstError_noCtx (s : State) (c : Byte) (rest : List (Bool × ErrCode)) :
    firstError (noCtx s c :: rest) = if s.cfg.nCtx ≤ c.toNat then some .ctx else firstError rest := by
  simp [firstError, noCtx]

/-- E_ARG of an index operand (30_encoding.md R98). -/
theorem firstError_badIndex (k : Word) (bound : Nat) (rest : List (Bool × ErrCode)) :
    firstError (badIndex k bound :: rest) = if bound < k.toNat then some .arg else firstError rest := by
  simp [firstError, badIndex]

/-- E_BUS of a header word: some byte of it is not mapped (40_wireheader.md R120). -/
theorem firstError_noHdr (s : State) (c : Byte) (w : Nat) (rest : List (Bool × ErrCode)) :
    firstError (noHdr s c w :: rest) =
      if MappedAll s.cfg (hdrByteAddr s c (4 * w)) 4 then firstError rest else some .bus := by
  have hmapped : mappedRegion s.cfg (s.hdrAddr c.toNat w, 4) = true ↔ MappedAll s.cfg (hdrByteAddr s c (4 * w)) 4 :=
    mappedRegion_iff (.inl (by decide))
  simp only [firstError, noHdr, unmapped, Bool.not_eq_true', ← Bool.not_eq_true, hmapped, ite_not]

/-- The length is past OCAP on an OWNED context, past 2^32 on a BORROWED one (40_wireheader.md R132). -/
theorem badLength_failed (x : Ctx) (n : Word) :
    (badLength x n).1 = true ↔
      (x.own = .owned ∧ x.ocap.toNat < n.toNat) ∨
      (x.own = .borrowed ∧ 0 < n.toNat ∧ 2 ^ 32 < x.paddr.toNat + n.toNat) := by
  cases h : x.own <;> simp [badLength, h, pastTop]

/-! ## A command whose checks are decided -/

/-- A command ends with the error of its first failed check, CLONE's checks before its request included
(60_exceptions.md R262, R263). -/
theorem exec_of_failed {s : State} {i : Instr} {e : ErrCode} (h : firstError (commandChecks s i) = some e) :
    exec i s = .next (s.failed e.code) := by
  by_cases hclone : ∃ dst src, i = .clone dst src
  · obtain ⟨dst, src, rfl⟩ := hclone
    have hchecks : firstError (cloneChecks dst src s) = some e := h
    simp only [exec, execClone, cloneReading, hchecks, raise]
  · rw [exec_eq_complete s i fun dst src hi => hclone ⟨dst, src, hi⟩, complete, h]
    rfl

/-- CLONE makes six checks before its request (41_packet.md R163). -/
theorem ne_clone_of_checks {s : State} {i : Instr} {checks : List (Bool × ErrCode)} (h : commandChecks s i = checks)
    (hfewer : checks.length < 6) (dst src : Byte) : i ≠ .clone dst src := by
  rintro rfl
  simp [← h, commandChecks, cloneChecks] at hfewer

theorem exec_of_passed {s : State} {i : Instr} (hi : ∀ dst src, i ≠ .clone dst src)
    (h : firstError (commandChecks s i) = none) : exec i s = .next { commandDone s i with err := 0 } := by
  rw [exec_eq_complete s i hi, complete, h]
  rfl

section

variable {s : State} {i : Instr} {c : Byte} {w : Nat}

/-- Without its context a command raises E_CTX, whatever it checks next (60_exceptions.md R263). -/
theorem exec_noCtx {rest : List (Bool × ErrCode)} (hchecks : commandChecks s i = noCtx s c :: rest)
    (hc : s.cfg.nCtx ≤ c.toNat) : exec i s = .next (s.failed 0x02) :=
  exec_of_failed (by rw [hchecks, firstError_noCtx, if_pos hc])

/-- An accessor of a header word that is not mapped raises E_BUS (40_wireheader.md R120). -/
theorem exec_noHdr (hchecks : commandChecks s i = [noCtx s c, noHdr s c w]) (hc : c.toNat < s.cfg.nCtx)
    (hm : ¬MappedAll s.cfg (hdrByteAddr s c (4 * w)) 4) : exec i s = .next (s.failed 0x0A) :=
  exec_of_failed (by rw [hchecks, firstError_noCtx, if_neg (by omega), firstError_noHdr, if_neg hm])

/-- An accessor of a mapped header word finishes. -/
theorem exec_hdrDone (hchecks : commandChecks s i = [noCtx s c, noHdr s c w]) (hc : c.toNat < s.cfg.nCtx)
    (hm : MappedAll s.cfg (hdrByteAddr s c (4 * w)) 4) : exec i s = .next { commandDone s i with err := 0 } := by
  refine exec_of_passed (ne_clone_of_checks hchecks (by simp)) ?_
  rw [hchecks, firstError_noCtx, if_neg (by omega), firstError_noHdr, if_pos hm, firstError]

/-! ## Header words as values -/

/-- A header word is the value of its four bytes (10_state.md R34, 20_memory.md R62). -/
theorem hdr_toNat (s : State) (c : Byte) (w : Nat) : (s.hdr c.toNat w).toNat = hdrValue s c w :=
  wordAt_toNat s _

theorem hdr_eq_ofNat (s : State) (c : Byte) (w : Nat) : s.hdr c.toNat w = BitVec.ofNat 32 (hdrValue s c w) := by
  rw [← hdr_toNat, BitVec.ofNat_toNat, BitVec.setWidth_eq]

/-- A getter of bits hi..lo returns them as a quotient and a remainder (00_scope.md R11). -/
theorem exec_getHdrField {hi lo : Nat} (hchecks : commandChecks s i = [noCtx s c, noHdr s c w])
    (hdone : commandDone s i = withHdrField s c w hi lo) (hc : c.toNat < s.cfg.nCtx)
    (hm : MappedAll s.cfg (hdrByteAddr s c (4 * w)) 4) :
    exec i s =
      .next { s with res0 := BitVec.ofNat 32 (hdrValue s c w / 2 ^ lo % 2 ^ (hi - lo + 1)), err := 0 } := by
  rw [exec_hdrDone hchecks hc hm, hdone, withHdrField, slice, hdr_toNat]

/-- A getter of the bits from lo to the top returns the quotient alone. -/
theorem exec_getHdrField_top {lo : Nat} (hlo : lo ≤ 31) (hchecks : commandChecks s i = [noCtx s c, noHdr s c w])
    (hdone : commandDone s i = withHdrField s c w 31 lo) (hc : c.toNat < s.cfg.nCtx)
    (hm : MappedAll s.cfg (hdrByteAddr s c (4 * w)) 4) :
    exec i s = .next { s with res0 := BitVec.ofNat 32 (hdrValue s c w / 2 ^ lo), err := 0 } := by
  have hquot : hdrValue s c w / 2 ^ lo < 2 ^ (31 - lo + 1) := by
    apply Nat.div_lt_of_lt_mul
    rw [← hdr_toNat, ← Nat.pow_add, show lo + (31 - lo + 1) = 32 by omega]
    exact (s.hdr c.toNat w).isLt
  rw [exec_getHdrField hchecks hdone hc hm, Nat.mod_eq_of_lt hquot]

/-- A getter of the bits from the lowest to hi returns the remainder alone. -/
theorem exec_getHdrField_bottom {hi : Nat} (hchecks : commandChecks s i = [noCtx s c, noHdr s c w])
    (hdone : commandDone s i = withHdrField s c w hi 0) (hc : c.toNat < s.cfg.nCtx)
    (hm : MappedAll s.cfg (hdrByteAddr s c (4 * w)) 4) :
    exec i s = .next { s with res0 := BitVec.ofNat 32 (hdrValue s c w % 2 ^ (hi + 1)), err := 0 } := by
  rw [exec_getHdrField hchecks hdone hc hm, Nat.pow_zero, Nat.div_one, Nat.sub_zero]

end

/-- Settles O13. -/
theorem wordZeroGettersReturnTheirBits : Obligations.WordZeroGettersReturnTheirBits := by
  intro s c
  have hchecks : ∀ i ∈ [Instr.getFlag c, .getType c, .getExtType c, .getSeqNo c],
      commandChecks s i = [noCtx s c, noHdr s c 0] := by
    simp [commandChecks]
  exact ⟨fun hc i hi => exec_noCtx (hchecks i hi) hc, fun hc hm i hi => exec_noHdr (hchecks i hi) hc hm,
    fun hc hm => ⟨exec_getHdrField_top (by decide) rfl rfl hc hm,
      exec_getHdrField (hi := 30) (lo := 28) rfl rfl hc hm, exec_getHdrField (hi := 27) (lo := 16) rfl rfl hc hm,
      exec_getHdrField_bottom rfl rfl hc hm⟩⟩

/-- Settles O14. -/
theorem wordOneGettersReturnTheirBits : Obligations.WordOneGettersReturnTheirBits := by
  intro s c
  have hchecks : ∀ i ∈ [Instr.getAckSeqNo c, .getMsgBoundary c, .getMsgOrderFlag c, .getMsgSeq c],
      commandChecks s i = [noCtx s c, noHdr s c 1] := by
    simp [commandChecks]
  refine ⟨fun hc i hi => exec_noCtx (hchecks i hi) hc, fun hc hm i hi => exec_noHdr (hchecks i hi) hc hm,
    fun hc hm => ⟨?_, exec_getHdrField_top (by decide) rfl rfl hc hm,
      exec_getHdrField (hi := 29) (lo := 29) rfl rfl hc hm, exec_getHdrField_bottom rfl rfl hc hm⟩⟩
  -- the whole word is the quotient by 2^0
  rw [exec_getHdrField_top (lo := 0) (by decide) rfl rfl hc hm, Nat.pow_zero, Nat.div_one]

/-! ## Header words by index -/

section

variable {s : State} {i : Instr} {c : Byte} {k : Word} {bound : Nat}

/-- An index above its bound raises E_ARG, whatever the header's place (40_wireheader.md R120). -/
theorem exec_badIndex {rest : List (Bool × ErrCode)}
    (hchecks : commandChecks s i = noCtx s c :: badIndex k bound :: rest) (hc : c.toNat < s.cfg.nCtx)
    (hk : bound < k.toNat) : exec i s = .next (s.failed 0x03) :=
  exec_of_failed (by rw [hchecks, firstError_noCtx, if_neg (by omega), firstError_badIndex, if_pos hk])

theorem exec_indexed_noHdr (hchecks : commandChecks s i = [noCtx s c, badIndex k bound, noHdr s c k.toNat])
    (hc : c.toNat < s.cfg.nCtx) (hk : k.toNat ≤ bound)
    (hm : ¬MappedAll s.cfg (hdrByteAddr s c (4 * k.toNat)) 4) : exec i s = .next (s.failed 0x0A) :=
  exec_of_failed (by
    rw [hchecks, firstError_noCtx, if_neg (by omega), firstError_badIndex, if_neg (by omega), firstError_noHdr,
      if_neg hm])

theorem exec_indexedDone (hchecks : commandChecks s i = [noCtx s c, badIndex k bound, noHdr s c k.toNat])
    (hc : c.toNat < s.cfg.nCtx) (hk : k.toNat ≤ bound) (hm : MappedAll s.cfg (hdrByteAddr s c (4 * k.toNat)) 4) :
    exec i s = .next { commandDone s i with err := 0 } := by
  refine exec_of_passed (ne_clone_of_checks hchecks (by simp)) ?_
  rw [hchecks, firstError_noCtx, if_neg (by omega), firstError_badIndex, if_neg (by omega), firstError_noHdr,
    if_pos hm, firstError]

end

/-- Settles O15. -/
theorem getWordReturnsHeaderWord : Obligations.GetWordReturnsHeaderWord := by
  intro s c
  refine ⟨exec_noCtx rfl, exec_badIndex rfl, exec_indexed_noHdr rfl, fun hc hk hm => ?_⟩
  rw [exec_indexedDone rfl hc hk hm, commandDone, hdr_eq_ofNat]

/-- All that storing a mapped header word does to the bytes that agents read (00_scope.md R14, 20_memory.md R67). -/
theorem byteAt_setHdr {s : State} {c : Byte} {w : Nat} (v : Word)
    (hm : MappedAll s.cfg (hdrByteAddr s c (4 * w)) 4) (hwf : Memory.wf s.mem = true) (x : Nat) :
    (s.setHdr c.toNat w v).byteAt x =
      if hdrByteAddr s c (4 * w) ≤ x ∧ x < hdrByteAddr s c (4 * w) + 4 then
        storedByte s.cfg x (beByte v.toNat (x - hdrByteAddr s c (4 * w)))
      else s.byteAt x := by
  have hlast := (hm 3 (by decide)).1
  exact byteAt_writeWord s (hdrByteAddr s c (4 * w)) v (by omega) hwf x

/-- Settles O16. -/
theorem setWordStoresHeaderWord : Obligations.SetWordStoresHeaderWord := by
  intro s c hs
  refine ⟨exec_noCtx rfl, exec_badIndex rfl, exec_indexed_noHdr rfl, fun hc hk hm => ?_⟩
  exact ⟨_, exec_indexedDone rfl hc hk hm, rfl, byteAt_setHdr s.arg1 hm ((inv_iff s).1 hs).mem.canonical⟩

/-! ## The registers of a context -/

/-- A command that checks nothing but its context finishes where there is one. -/
theorem exec_ctxDone {s : State} {i : Instr} {c : Byte} (hchecks : commandChecks s i = [noCtx s c])
    (hc : c.toNat < s.cfg.nCtx) : exec i s = .next { commandDone s i with err := 0 } := by
  refine exec_of_passed (ne_clone_of_checks hchecks (by simp)) ?_
  rw [hchecks, firstError_noCtx, if_neg (by omega), firstError]

theorem ownWord_eq (o : Ownership) : ownWord o = if o = .owned then 1 else 0 := by
  cases o <;> rfl

/-- Settles O17. -/
theorem contextReadsReturnRegisters : Obligations.ContextReadsReturnRegisters := by
  intro s c
  have hchecks : ∀ i ∈ [Instr.getLength c, .getPacketVector c, .getCtxState c], commandChecks s i = [noCtx s c] := by
    simp [commandChecks]
  refine ⟨fun hc i hi => exec_noCtx (hchecks i hi) hc, fun hc => ⟨exec_ctxDone rfl hc, exec_ctxDone rfl hc, ?_⟩⟩
  rw [exec_ctxDone rfl hc, ← ownWord_eq]
  rfl

/-- Settles O18: `tooLong` is what the check of the length says. -/
theorem setLengthWritesLength : Obligations.SetLengthWritesLength := by
  intro s c tooLong hlong
  rw [← badLength_failed] at hlong
  have hchecks : c.toNat < s.cfg.nCtx → firstError (commandChecks s (.setLength c)) =
      if (badLength (s.ctx c.toNat) s.arg0).1 then some .range else none := fun hc => by
    rw [commandChecks, firstError_noCtx, if_neg (by omega)]
    rfl
  refine ⟨exec_noCtx rfl, fun hc h => ?_, fun hc h => ?_⟩
  · exact exec_of_failed (e := .range) (by rw [hchecks hc, if_pos (hlong.1 h)])
  · exact exec_of_passed (by simp) (by rw [hchecks hc, if_neg fun hbad => h (hlong.2 hbad)])

end Sys2Proof.Machine

/-! # Proofs: the packet family (41_packet.md)

The first error of each command of the family in the words of its rule, what PACK, RELEASE and CLONE do to the bytes,
and a context's situation; a command's effect on another context's packet comes last. -/

namespace Sys2Proof.Machine

/-! ## The first error, check by check -/

/-- E_OWNED (41_packet.md R160). -/
theorem firstError_isOwned (s : State) (c : Byte) (rest : List (Bool × ErrCode)) :
    firstError (isOwned s c :: rest) = if (s.ctx c.toNat).own = .owned then some .owned else firstError rest := by
  simp [firstError, isOwned]

/-- A region operand runs past the top of memory (20_memory.md R63). -/
abbrev PastTop (a n : Word) : Prop := 0 < n.toNat ∧ 2 ^ 32 < a.toNat + n.toNat

theorem pastTop_iff (a n : Word) : pastTop a n.toNat = true ↔ PastTop a n := by
  simp [pastTop]

/-- E_RANGE (20_memory.md R63). -/
theorem firstError_badRange (a n : Word) (rest : List (Bool × ErrCode)) :
    firstError (badRange a n.toNat :: rest) = if PastTop a n then some .range else firstError rest := by
  simp only [firstError, badRange, pastTop_iff]

/-- The errors of BIND in their order (41_packet.md R164). -/
theorem firstError_bind (s : State) (c : Byte) :
    firstError (commandChecks s (.bind c)) =
      if s.cfg.nCtx ≤ c.toNat then some .ctx
      else if (s.ctx c.toNat).own = .owned then some .owned
      else if s.arg1.toNat < 20 then some .short
      else if PastTop s.arg0 s.arg1 then some .range
      else none := by
  rw [commandChecks, firstError_noCtx, firstError_isOwned, firstError, firstError_badRange]
  simp only [decide_eq_true_eq, firstError]

/-- The errors of SET_PAYLOAD in their order (41_packet.md R165). -/
theorem firstError_setPayload (s : State) (c : Byte) :
    firstError (commandChecks s (.setPayload c)) =
      if s.cfg.nCtx ≤ c.toNat then some .ctx
      else if (s.ctx c.toNat).own = .owned then some .owned
      else if PastTop s.arg0 s.arg1 then some .range
      else none := by
  rw [commandChecks, firstError_noCtx, firstError_isOwned, firstError_badRange, firstError]

theorem not_owned_of_borrowed {x : Ctx} (h : x.own = .borrowed) : x.own ≠ .owned := by
  simp [h]

/-! ## BIND and SET_PAYLOAD -/

/-- The payload of a datagram is what follows its header (41_packet.md R164). -/
theorem ofNat_sub_header {n : Word} (h : 20 ≤ n.toNat) : BitVec.ofNat 32 (n.toNat - hdrSize) = n - 20 := by
  apply BitVec.eq_of_toNat_eq
  rw [BitVec.toNat_sub_of_le (by simpa [BitVec.le_def] using h)]
  exact Nat.mod_eq_of_lt (by have := n.isLt; omega)

/-- Settles O22. -/
theorem bindRecordsDatagram : Obligations.BindRecordsDatagram := by
  intro s c
  have hchecks := firstError_bind s c
  refine ⟨exec_noCtx rfl, fun hc ho => ?_, fun hc hb hshort => ?_, fun hc hb hlong htop => ?_,
    fun hc hb hlong hfits => ?_⟩
  · exact exec_of_failed (e := .owned) (by rw [hchecks, if_neg (by omega), if_pos ho])
  · exact exec_of_failed (e := .short)
      (by rw [hchecks, if_neg (by omega), if_neg (not_owned_of_borrowed hb), if_pos hshort])
  · exact exec_of_failed (e := .range)
      (by rw [hchecks, if_neg (by omega), if_neg (not_owned_of_borrowed hb), if_neg (by omega),
        if_pos ⟨by omega, htop⟩])
  · have hpass : firstError (commandChecks s (.bind c)) = none := by
      rw [hchecks, if_neg (by omega), if_neg (not_owned_of_borrowed hb), if_neg (by omega), if_neg (by omega)]
    have hwrap : BitVec.ofNat 32 ((s.arg0.toNat + 20) % 2 ^ 32) = BitVec.ofNat 32 (s.arg0.toNat + 20) :=
      BitVec.eq_of_toNat_eq (by simp)
    rw [exec_of_passed (by simp) hpass, commandDone, ofNat_sub_header hlong, hwrap]
    rfl

/-- Settles O23. -/
theorem setPayloadRecordsRegion : Obligations.SetPayloadRecordsRegion := by
  intro s c
  have hchecks := firstError_setPayload s c
  refine ⟨exec_noCtx rfl, fun hc ho => ?_, fun hc hb htop => ?_, fun hc hb hfits => ?_⟩
  · exact exec_of_failed (e := .owned) (by rw [hchecks, if_neg (by omega), if_pos ho])
  · exact exec_of_failed (e := .range)
      (by rw [hchecks, if_neg (by omega), if_neg (not_owned_of_borrowed hb), if_pos htop])
  · exact exec_of_passed (by simp)
      (by rw [hchecks, if_neg (by omega), if_neg (not_owned_of_borrowed hb), if_neg (by omega)])

end Sys2Proof.Machine

namespace Sys2Proof.Machine

/-! ## The checks of PACK -/

/-- F = 1 is the top bit of the type word (41_packet.md R161). -/
theorem isControl_iff (t : Word) : isControl t = true ↔ 2 ^ 31 ≤ t.toNat := by
  have := t.isLt
  rw [isControl, beq_iff_eq, slice_bit_eq_one]
  omega

theorem isControl_eq_false (t : Word) : isControl t = false ↔ t.toNat < 2 ^ 31 := by
  rw [← Bool.not_eq_true, isControl_iff, Nat.not_le]

/-- The low half of a control type word must be 0 (41_packet.md R161). -/
theorem slice_low_half_eq_zero (t : Word) : slice t 15 0 = 0 ↔ t.toNat % 2 ^ 16 = 0 := by
  rw [← BitVec.toNat_inj, slice_toNat t 15 0 (by decide), Nat.pow_zero, Nat.div_one]
  rfl

/-- The errors of a data PACK in their order, the path bits and the rest of ARG0 unread (41_packet.md R161). -/
theorem firstError_packData {s : State} (hf : s.arg0.toNat < 2 ^ 31) (c : Byte) (lp rp : Bool) :
    firstError (commandChecks s (.pack c lp rp)) =
      if s.cfg.nCtx ≤ c.toNat then some .ctx
      else if (s.ctx c.toNat).own = .owned then some .owned
      else if MappedAll s.cfg (hdrByteAddr s c 0) 4 then none
      else some .bus := by
  have hdata := (isControl_eq_false s.arg0).2 hf
  rw [commandChecks, hdata, firstError_noCtx, firstError, firstError, firstError_isOwned, firstError,
    firstError_noHdr]
  simp [firstError]

/-- The errors of a control PACK in their order (41_packet.md R161). -/
theorem firstError_packControl {s : State} (hf : 2 ^ 31 ≤ s.arg0.toNat) (c : Byte) (lp rp : Bool) :
    firstError (commandChecks s (.pack c lp rp)) =
      if s.cfg.nCtx ≤ c.toNat then some .ctx
      else if s.arg0.toNat % 2 ^ 16 ≠ 0 ∨ (lp = true ∧ rp = true) then some .arg
      else if (s.ctx c.toNat).own = .owned then some .owned
      else if rp = true ∧ PastTop s.arg2 s.arg3 then some .range
      else if ¬MappedAll s.cfg (hdrByteAddr s c 0) 4 ∨ (lp = true ∧ ¬MappedAll s.cfg (hdrByteAddr s c 4) 4) then
        some .bus
      else none := by
  have hcontrol := (isControl_iff s.arg0).2 hf
  have hword1 : (noHdr s c 1).1 = true ↔ ¬MappedAll s.cfg (hdrByteAddr s c 4) 4 := by
    rw [← mappedRegion_iff (.inl (by decide))]
    simp [noHdr, unmapped, State.hdrAddr]
  rw [commandChecks, hcontrol, firstError_noCtx, firstError, firstError, firstError_isOwned, firstError,
    firstError_noHdr, firstError]
  simp only [Bool.true_and, Bool.and_eq_true, bne_iff_ne, ne_eq, slice_low_half_eq_zero, pastTop_iff, hword1,
    firstError, ite_or, ite_not]

/-- Settles O21. -/
theorem packControlErrors : Obligations.PackControlErrors := by
  intro s c lp rp hf
  have hchecks := firstError_packControl hf c lp rp
  refine ⟨exec_noCtx rfl, fun hc harg => ?_, fun hc hlow hpath => ?_⟩
  · exact exec_of_failed (e := .arg) (by rw [hchecks, if_neg (by omega), if_pos harg])
  · have hargs : ¬(s.arg0.toNat % 2 ^ 16 ≠ 0 ∨ (lp = true ∧ rp = true)) := by
      rintro (hbits | hboth)
      exacts [hbits hlow, hpath hboth]
    refine ⟨fun ho => ?_, fun hb => ⟨fun hrange => ?_, fun hrange hbus => ?_⟩⟩
    · exact exec_of_failed (e := .owned) (by rw [hchecks, if_neg (by omega), if_neg hargs, if_pos ho])
    · exact exec_of_failed (e := .range)
        (by rw [hchecks, if_neg (by omega), if_neg hargs, if_neg (not_owned_of_borrowed hb), if_pos hrange])
    · exact exec_of_failed (e := .bus)
        (by rw [hchecks, if_neg (by omega), if_neg hargs, if_neg (not_owned_of_borrowed hb), if_neg hrange,
          if_pos hbus])

end Sys2Proof.Machine

namespace Sys2Proof.Machine

/-! ## What a finishing PACK stores -/

/-- A byte of a header word, by its place in the word (10_state.md R34, 20_memory.md R62). -/
theorem beByte_hdr (s : State) (c : Byte) (w : Nat) {i : Nat} (hi : i < 4) :
    beByte (s.hdr c.toNat w).toNat i = s.byteAt (hdrByteAddr s c (4 * w) + i) := by
  have h0 := (s.byteAt (hdrByteAddr s c (4 * w))).isLt
  have h1 := (s.byteAt (hdrByteAddr s c (4 * w) + 1)).isLt
  have h2 := (s.byteAt (hdrByteAddr s c (4 * w) + 2)).isLt
  have h3 := (s.byteAt (hdrByteAddr s c (4 * w) + 3)).isLt
  have hvalue : (s.hdr c.toNat w).toNat = _ := wordAt_toNat s (hdrByteAddr s c (4 * w))
  apply BitVec.eq_of_toNat_eq
  rw [hvalue, BitVec.toNat_ofNat]
  obtain rfl | rfl | rfl | rfl : i = 0 ∨ i = 1 ∨ i = 2 ∨ i = 3 := by omega
  all_goals
    simp
    omega

/-- A byte that agents read stays as it is when it is stored again. -/
theorem storedByte_byteAt (s : State) (x : Nat) : storedByte s.cfg x (s.byteAt x) = s.byteAt x := by
  cases hr : reservedByte s.cfg x with
  | false => exact storedByte_of_not_reserved hr
  | true => rw [byteAt_reserved s hr, storedByte, ite_self]

/-- Clearing bit 31 of a word clears the top bit of its first byte and leaves its other bytes (41_packet.md R161). -/
theorem beByte_clearFlag (v : Word) {i : Nat} (hi : i < 4) :
    beByte (replaceSlice v 31 31 0).toNat i =
      if i = 0 then BitVec.ofNat 8 ((beByte v.toNat 0).toNat % 128) else beByte v.toNat i := by
  have hv := v.isLt
  have hcleared : (replaceSlice v 31 31 0).toNat = v.toNat % 2 ^ 31 := by
    rw [replaceSlice_toNat v 0 31 31 (by decide) (by decide)]
    simp only [BitVec.ofNat_eq_ofNat, BitVec.toNat_ofNat]
    omega
  rw [hcleared]
  apply BitVec.eq_of_toNat_eq
  obtain rfl | rfl | rfl | rfl : i = 0 ∨ i = 1 ∨ i = 2 ∨ i = 3 := by omega
  · simp
    omega
  · simp
    omega
  · simp
    omega
  · simp

/-- All that a data PACK does to the bytes that agents read (41_packet.md R161). -/
theorem packedData_byteAt {s : State} {c : Byte} (hm : MappedAll s.cfg (hdrByteAddr s c 0) 4)
    (hwf : Memory.wf s.mem = true) (x : Nat) :
    (packedData c.toNat s).byteAt x =
      if x = hdrByteAddr s c 0 then BitVec.ofNat 8 ((s.byteAt x).toNat % 128) else s.byteAt x := by
  have hstored : (packedData c.toNat s).byteAt x =
      if hdrByteAddr s c 0 ≤ x ∧ x < hdrByteAddr s c 0 + 4 then
        storedByte s.cfg x (beByte (replaceSlice (s.hdr c.toNat 0) 31 31 0).toNat (x - hdrByteAddr s c 0))
      else s.byteAt x := byteAt_setHdr (w := 0) _ hm hwf x
  rw [hstored]
  by_cases hx : hdrByteAddr s c 0 ≤ x ∧ x < hdrByteAddr s c 0 + 4
  · have hi : x - hdrByteAddr s c 0 < 4 := by omega
    have hbyte (i : Nat) (hi : i < 4) : beByte (s.hdr c.toNat 0).toNat i = s.byteAt (hdrByteAddr s c 0 + i) :=
      beByte_hdr s c 0 hi
    rw [if_pos hx, beByte_clearFlag _ hi, hbyte 0 (by decide), hbyte _ hi, Nat.add_sub_cancel' hx.1]
    by_cases hflag : x = hdrByteAddr s c 0
    · rw [if_pos (by omega), if_pos hflag, Nat.add_zero, ← hflag]
      cases hr : reservedByte s.cfg x with
      | false => exact storedByte_of_not_reserved hr
      | true =>
        rw [byteAt_reserved s hr, storedByte, if_pos hr]
        rfl
    · rw [if_neg (by omega), if_neg hflag, storedByte_byteAt]
  · rw [if_neg hx, if_neg (by omega)]

/-- Settles O19. -/
theorem packDataClearsFlagOnly : Obligations.PackDataClearsFlagOnly := by
  intro s c lp rp hs hf
  have hchecks := firstError_packData hf c lp rp
  refine ⟨exec_noCtx rfl, fun hc ho => ?_, fun hc hb hm => ?_, fun hc hb hm => ?_⟩
  · exact exec_of_failed (e := .owned) (by rw [hchecks, if_neg (by omega), if_pos ho])
  · exact exec_of_failed (e := .bus)
      (by rw [hchecks, if_neg (by omega), if_neg (not_owned_of_borrowed hb), if_neg hm])
  · have hpass : firstError (commandChecks s (.pack c lp rp)) = none := by
      rw [hchecks, if_neg (by omega), if_neg (not_owned_of_borrowed hb), if_pos hm]
    have hdone : commandDone s (.pack c lp rp) = packedData c.toNat s := by
      rw [commandDone, (isControl_eq_false s.arg0).2 hf]
      rfl
    rw [exec_of_passed (by simp) hpass, hdone]
    exact ⟨_, rfl, rfl, packedData_byteAt hm ((inv_iff s).1 hs).mem.canonical⟩

/-- A control type word that passes its check is the word 0 that PACK writes (41_packet.md R161). -/
theorem controlWord_eq_self {t : Word} (hf : 2 ^ 31 ≤ t.toNat) (hlow : t.toNat % 2 ^ 16 = 0) : controlWord t = t := by
  have ht := t.isLt
  apply BitVec.eq_of_toNat_eq
  rw [controlWord, slice_toNat t 30 28 (by decide), slice_toNat t 27 16 (by decide), BitVec.toNat_ofNat]
  omega

/-- All that a control PACK does to the bytes that agents read: word 0, and word 1 on the lparam path (41_packet.md
R161). -/
theorem packedControl_byteAt {s : State} {c : Byte} {lp rp : Bool} (hf : 2 ^ 31 ≤ s.arg0.toNat)
    (hlow : s.arg0.toNat % 2 ^ 16 = 0) (hm0 : MappedAll s.cfg (hdrByteAddr s c 0) 4)
    (hm1 : lp = true → MappedAll s.cfg (hdrByteAddr s c 4) 4) (hwf : Memory.wf s.mem = true) (x : Nat) :
    (packedControl c.toNat lp rp s).byteAt x =
      if hdrByteAddr s c 0 ≤ x ∧ x < hdrByteAddr s c 4 then
        storedByte s.cfg x (beByte s.arg0.toNat (x - hdrByteAddr s c 0))
      else if lp = true ∧ hdrByteAddr s c 4 ≤ x ∧ x < hdrByteAddr s c 8 then
        storedByte s.cfg x (beByte s.arg1.toNat (x - hdrByteAddr s c 4))
      else s.byteAt x := by
  have hword0 : (s.setHdr c.toNat 0 s.arg0).byteAt x =
      if hdrByteAddr s c 0 ≤ x ∧ x < hdrByteAddr s c 4 then
        storedByte s.cfg x (beByte s.arg0.toNat (x - hdrByteAddr s c 0))
      else s.byteAt x := byteAt_setHdr (w := 0) s.arg0 hm0 hwf x
  rw [packedControl_eq, controlWord_eq_self hf hlow]
  cases lp with
  | false =>
    rw [if_neg (c := false = true ∧ _) (by simp)]
    exact hword0
  | true =>
    have hlast : hdrByteAddr s c 0 + 3 < 2 ^ 32 := (hm0 3 (by decide)).1
    have hwf0 : Memory.wf (s.setHdr c.toNat 0 s.arg0).mem = true :=
      storeBytes_wf s.cfg _ (show hdrByteAddr s c 0 + 4 ≤ 2 ^ 32 by omega) hwf
    have hword1 : ((s.setHdr c.toNat 0 s.arg0).setHdr c.toNat 1 s.arg1).byteAt x =
        if hdrByteAddr s c 4 ≤ x ∧ x < hdrByteAddr s c 8 then
          storedByte s.cfg x (beByte s.arg1.toNat (x - hdrByteAddr s c 4))
        else (s.setHdr c.toNat 0 s.arg0).byteAt x :=
      byteAt_setHdr (s := s.setHdr c.toNat 0 s.arg0) (w := 1) s.arg1 (hm1 rfl) hwf0 x
    refine hword1.trans ?_
    by_cases hx1 : hdrByteAddr s c 4 ≤ x ∧ x < hdrByteAddr s c 8
    · rw [if_pos hx1, if_neg (by omega), if_pos ⟨rfl, hx1⟩]
    · rw [if_neg hx1, if_neg (c := true = true ∧ _) fun h => hx1 h.2, hword0]

/-- Settles O20. -/
theorem packControlBuildsPacket : Obligations.PackControlBuildsPacket := by
  intro s c lp rp hs hc hf hlow hpath hb hrange hm0 hm1
  have hargs : ¬(s.arg0.toNat % 2 ^ 16 ≠ 0 ∨ (lp = true ∧ rp = true)) := by
    rintro (hbits | hboth)
    exacts [hbits hlow, hpath hboth]
  have hmapped :
      ¬(¬MappedAll s.cfg (hdrByteAddr s c 0) 4 ∨ (lp = true ∧ ¬MappedAll s.cfg (hdrByteAddr s c 4) 4)) := by
    rintro (h0 | ⟨hlp, h1⟩)
    exacts [h0 hm0, h1 (hm1 hlp)]
  have hpass : firstError (commandChecks s (.pack c lp rp)) = none := by
    rw [firstError_packControl hf, if_neg (by omega), if_neg hargs, if_neg (not_owned_of_borrowed hb), if_neg hrange,
      if_neg hmapped]
  have hdone : commandDone s (.pack c lp rp) = packedControl c.toNat lp rp s := by
    rw [commandDone, (isControl_iff s.arg0).2 hf, if_pos rfl]
  rw [exec_of_passed (by simp) hpass, hdone]
  refine ⟨_, rfl, ?_, packedControl_byteAt hf hlow hm0 hm1 ((inv_iff s).1 hs).mem.canonical⟩
  rw [packedControl_eq]
  cases lp with
  | false => rfl
  | true =>
    obtain rfl : rp = false := by simpa using hpath
    rfl

end Sys2Proof.Machine

namespace Sys2Proof.Machine

/-! ## RELEASE -/

/-- All that RELEASE does to the bytes that agents read (41_packet.md R166). -/
theorem released_byteAt {s : State} (h : Invariant s) {c : Nat} (hc : c < s.cfg.nCtx) (x : Nat) :
    (released c s).byteAt x = if winAddr s.cfg c ≤ x ∧ x < winAddr s.cfg c + 20 then 0 else s.byteAt x := by
  have hwin := winAddr_fits h.cfg hc
  by_cases hx : winAddr s.cfg c ≤ x ∧ x < winAddr s.cfg c + 20
  · have hzeroed := byteAt_writeBytes s (winAddr s.cfg c) (List.replicate hdrSize 0)
      (by simp only [List.length_replicate, hdrSize]; omega) h.mem.canonical x
    rw [released_eq, if_pos hx]
    refine hzeroed.trans ?_
    rw [List.length_replicate, if_pos hx, List.getD_replicate _ (show x - winAddr s.cfg c < 20 by omega), storedByte,
      ite_self]
  · rw [if_neg hx]
    exact released_byteAt_other s hx

/-- Settles O24. -/
theorem releaseReturnsContextToReset : Obligations.ReleaseReturnsContextToReset := by
  intro s c hs
  refine ⟨exec_noCtx rfl, fun hc => ⟨_, exec_ctxDone rfl hc, ?_, released_byteAt ((inv_iff s).1 hs) hc⟩⟩
  rw [commandDone, released_eq]
  rfl

/-! ## CLONE with an answer lined up -/

theorem requestAlloc_failed {s : State} {answers : List (Option Word)} (h : s.allocAnswers = none :: answers)
    (owner : Nat) (n : Word) :
    requestAlloc s owner n =
      .failed { s with allocAnswers := answers, allocTrace := .alloc n none :: s.allocTrace } := by
  rw [requestAlloc, h]
  rfl

theorem requestAlloc_answered {s : State} {a : Word} {answers : List (Option Word)}
    (h : s.allocAnswers = some a :: answers) (owner : Nat) (n : Word) :
    requestAlloc s owner n =
      if AllocContract s n.toNat a.toNat then .granted a (s.granted owner n a answers s.draws) else .broken a := by
  simp only [requestAlloc, h, allocOk_iff]
  rfl

/-- CLONE under an answer that breaks the contract (93_implementation_defined.md U9). -/
theorem exec_clone_broken {s : State} {dst src : Byte} {a : Word}
    (hpass : firstError (cloneChecks dst src s) = none)
    (hr : requestAlloc s dst.toNat (s.ctx src.toNat).plen = .broken a) :
    exec (.clone dst src) s = .refused (.allocContract a) := by
  show cloneReading dst src s s = _
  simp only [cloneReading, hpass, hr]

/-- Settles O25. -/
theorem cloneCopiesHeaderAndPayload : Obligations.CloneCopiesHeaderAndPayload := by
  rintro s dst src a answers x hs hdst hsrc hne rfl hb hheader hpayload hanswers hcontract
  have hpass := (cloneChecks_passed dst src s).2 ⟨hdst, hsrc, hne, hb, hheader, hpayload⟩
  have hgrant := (requestAlloc_answered hanswers dst.toNat (s.ctx src.toNat).plen).trans (if_pos hcontract)
  have hbytes := cloned_byteAt ((inv_iff s).1 hs) s answers s.draws hdst hcontract
  refine ⟨_, exec_clone_granted hpass hgrant, ?_, fun y => ?_⟩
  · rw [cloned_eq]
    rfl
  · rw [byteAt_setErr]
    exact hbytes y

/-- The errors of CLONE before its request, in their order (41_packet.md R163). -/
theorem firstError_clone (s : State) (dst src : Byte) :
    firstError (commandChecks s (.clone dst src)) =
      if s.cfg.nCtx ≤ dst.toNat ∨ s.cfg.nCtx ≤ src.toNat then some .ctx
      else if src = dst then some .arg
      else if (s.ctx dst.toNat).own = .owned then some .owned
      else if MappedAll s.cfg (s.ctx src.toNat).hbase.toNat 20 ∧
          MappedAll s.cfg (s.ctx src.toNat).paddr.toNat (s.ctx src.toNat).plen.toNat then none
      else some .bus := by
  have hmapped (a : Word) (n : Nat) (rest : List (Bool × ErrCode)) :
      firstError (unmapped s a.toNat n :: rest) = if MappedAll s.cfg a.toNat n then firstError rest else some .bus := by
    simp only [firstError, unmapped, Bool.not_eq_true', ← Bool.not_eq_true,
      mappedRegion_iff (.inr (Nat.le_of_lt a.isLt)), ite_not]
  have hsame (rest : List (Bool × ErrCode)) :
      firstError ((src == dst, .arg) :: rest) = if src = dst then some .arg else firstError rest := by
    simp only [firstError, beq_iff_eq]
  rw [commandChecks, cloneChecks, firstError_noCtx, firstError_noCtx, hsame, firstError_isOwned, hmapped, hmapped,
    firstError]
  simp only [hdrSize, ite_or, ite_and]

/-- Settles O26. -/
theorem cloneErrors : Obligations.CloneErrors := by
  rintro s dst src x rfl
  have hchecks := firstError_clone s dst src
  refine ⟨fun hctx => ?_, fun hdst hsrc => ⟨fun hsame => ?_, fun hne => ⟨fun ho => ?_, fun hb => ?_⟩⟩⟩
  · exact exec_of_failed (e := .ctx) (by rw [hchecks, if_pos hctx])
  · exact exec_of_failed (e := .arg) (by rw [hchecks, if_neg (by omega), if_pos hsame])
  · exact exec_of_failed (e := .owned) (by rw [hchecks, if_neg (by omega), if_neg hne, if_pos ho])
  · refine ⟨fun hbus => ?_, fun hmapped => ⟨fun answers hanswers => ?_, fun a answers hanswers hbroken => ?_⟩⟩
    · exact exec_of_failed (e := .bus)
        (by rw [hchecks, if_neg (by omega), if_neg hne, if_neg (not_owned_of_borrowed hb), if_neg hbus])
    · have hpass := (cloneChecks_passed dst src s).2 ⟨hdst, hsrc, hne, hb, hmapped⟩
      exact exec_clone_failed hpass (requestAlloc_failed hanswers _ _)
    · have hpass := (cloneChecks_passed dst src s).2 ⟨hdst, hsrc, hne, hb, hmapped⟩
      exact exec_clone_broken hpass ((requestAlloc_answered hanswers _ _).trans (if_neg hbroken))

end Sys2Proof.Machine

namespace Sys2Proof.Machine

/-! ## The situation of a context -/

/-- A situation is OWN and the header's place (41_packet.md R168). -/
theorem situation_congr {s t : State} {c : Nat} (hcfg : t.cfg = s.cfg) (hown : (t.ctx c).own = (s.ctx c).own)
    (hhbase : (t.ctx c).hbase = (s.ctx c).hbase) : situation t c = situation s c := by
  rw [situation, situation, hown, hhbase, hcfg]

theorem situation_borrowed {s : State} {c : Nat} (h : (s.ctx c).own = .borrowed) :
    situation s c = if (s.ctx c).hbase.toNat = winAddr s.cfg c then .ownPacket else .bound := by
  rw [situation, h]
  by_cases hwin : (s.ctx c).hbase.toNat = winAddr s.cfg c
  · rw [if_pos hwin, beq_iff_eq.2 hwin]
  · rw [if_neg hwin, beq_eq_false_iff_ne.2 hwin]

theorem situation_owned {s : State} {c : Nat} (h : (s.ctx c).own = .owned)
    (hwin : (s.ctx c).hbase.toNat = winAddr s.cfg c) : situation s c = .ownedClone := by
  simp [situation, h, hwin]

/-- A BORROWED context is no clone's owner. -/
theorem situation_ne_ownedClone {s : State} {c : Nat} (h : (s.ctx c).own = .borrowed) :
    situation s c ≠ .ownedClone := by
  rw [situation_borrowed h]
  split <;> simp

/-- 10_state.md R43 (c) leaves R168's three situations (41_packet.md R168). -/
theorem situation_ne_broken {s : State} (h : Invariant s) {c : Nat} (hc : c < s.cfg.nCtx) :
    situation s c ≠ .broken := by
  cases ho : (s.ctx c).own with
  | owned =>
    obtain ⟨hwin, _⟩ := (h.ctx c hc).owned ho
    simp [situation_owned ho hwin]
  | borrowed =>
    rw [situation_borrowed ho]
    split <;> simp

/-- Registers written with the context's own OWN and HBASE change no situation. -/
theorem situation_setCtx (s : State) {c : Nat} {x : Ctx} (hown : x.own = (s.ctx c).own)
    (hhbase : x.hbase = (s.ctx c).hbase) (d : Nat) : situation (s.setCtx c x) d = situation s d := by
  refine situation_congr rfl (own_setCtx s hown d) ?_
  rcases ctx_setCtx_cases s c x d with ⟨rfl, h⟩ | h
  · rw [h, hhbase]
  · rw [h]

theorem situation_setCtx_other (s : State) {c d : Nat} (x : Ctx) (h : d ≠ c) :
    situation (s.setCtx c x) d = situation s d := by
  rw [situation, situation, ctx_setCtx_other s x h]
  rfl

/-- The situation reads the parameters and the contexts alone. -/
theorem situation_of_ctxs {s t : State} (hcfg : t.cfg = s.cfg) (hctxs : t.ctxs = s.ctxs) (c : Nat) :
    situation t c = situation s c := by
  rw [situation, situation, ctx_congr hcfg hctxs, hcfg]

theorem situation_setRes (s : State) (v0 v1 v2 v3 : Word) (c : Nat) :
    situation { s with res0 := v0, res1 := v1, res2 := v2, res3 := v3 } c = situation s c := rfl

/-- Of the commands that finish, CLONE apart, only BIND and RELEASE of a context change its situation (41_packet.md
R168). -/
theorem commandDone_situation (s : State) {i : Instr} {c : Byte} (hbind : i ≠ .bind c) (hrelease : i ≠ .release c) :
    situation (commandDone s i) c.toNat = situation s c.toNat := by
  cases i with
  | setLength | setPayload => exact situation_setCtx s (by rfl) (by rfl) _
  | pack d lp rp =>
    simp only [commandDone]
    split
    · rw [packedControl_eq]
      exact (situation_of_ctxs (s := s.setCtx d.toNat _) rfl rfl _).trans (situation_setCtx s (by rfl) (by rfl) _)
    · exact situation_of_ctxs rfl rfl _
  | bind d =>
    have hcd : c.toNat ≠ d.toNat := fun h => hbind (by rw [BitVec.eq_of_toNat_eq h])
    exact situation_setCtx_other s _ hcd
  | release d =>
    have hcd : c.toNat ≠ d.toNat := fun h => hrelease (by rw [BitVec.eq_of_toNat_eq h])
    simp only [commandDone, released_eq]
    exact (situation_of_ctxs (s := s.setCtx d.toNat _) rfl rfl _).trans (situation_setCtx_other s _ hcd)
  | setWord | clone | setFrameId | setChunkId | setTotalChunks | setFrameDeadline | hsNew | hsSet | hsSerialize
  | hsDeserialize => exact situation_of_ctxs rfl rfl _
  | _ => exact situation_setRes s _ _ _ _ _

/-- BIND leaves the context bound, or with its own packet where the datagram stands at the context's window
(41_packet.md R164, R168; notes/assumptions/11.md). -/
theorem situation_bind {s : State} (h : Invariant s) {c : Byte}
    (hpass : firstError (commandChecks s (.bind c)) = none) :
    situation s c.toNat ≠ .ownedClone ∧ situation (commandDone s (.bind c)) c.toNat =
      if s.arg0.toNat = winAddr s.cfg c.toNat then .ownPacket else .bound := by
  simp only [firstError_none, commandChecks, List.forall_mem_cons, noCtx_passed, isOwned_passed] at hpass
  obtain ⟨hc, hb, _⟩ := hpass
  have hctx := ctx_setCtx_same s (c := c.toNat)
    { s.ctx c.toNat with
      hbase := s.arg0
      paddr := BitVec.ofNat 32 (s.arg0.toNat + hdrSize)
      plen := BitVec.ofNat 32 (s.arg1.toNat - hdrSize) } (by rwa [h.count])
  refine ⟨situation_ne_ownedClone hb, ?_⟩
  rw [commandDone, situation_borrowed (by rw [hctx]; exact hb), hctx]
  rfl

/-- RELEASE leaves the context with its own packet (41_packet.md R166, R168). -/
theorem situation_released {s : State} (h : Invariant s) {c : Nat} (hc : c < s.cfg.nCtx) :
    situation (released c s) c = .ownPacket := by
  have hctx : (released c s).ctx c = Ctx.fresh s.cfg c := by
    rw [released_eq]
    exact ctx_setCtx_same s _ (by rwa [h.count])
  rw [situation_borrowed (by rw [hctx]; rfl), hctx, released_eq]
  exact if_pos (winAddr_toNat h.cfg hc)

/-- The registers that CLONE gives its destination, with the buffer at a (41_packet.md R163). -/
abbrev cloneCtx (s : State) (dst src : Nat) (a : Word) : Ctx :=
  ⟨BitVec.ofNat 32 (winAddr s.cfg dst), a, (s.ctx src).plen, (s.ctx src).plen, .owned⟩

theorem ctx_setErr (s : State) (e : BitVec 8) (c : Nat) : State.ctx { s with err := e } c = s.ctx c := rfl

theorem cloned_cfg (dst src : Nat) (a : Word) (p s s1 : State) : (cloned dst src a p s s1).cfg = s1.cfg := by
  simp [cloned]

theorem cloned_ctxs (dst src : Nat) (a : Word) (p s s1 : State) :
    (cloned dst src a p s s1).ctxs = s1.ctxs.set dst (cloneCtx s dst src a) := by
  simp [cloned]

/-- CLONE writes the registers of its destination alone. -/
theorem ctx_cloned (dst src : Nat) (a : Word) (p s s1 : State) (c : Nat) :
    (cloned dst src a p s s1).ctx c = (s1.setCtx dst (cloneCtx s dst src a)).ctx c :=
  ctx_congr (s := s1.setCtx dst _) (cloned_cfg dst src a p s s1) (cloned_ctxs dst src a p s s1) c

/-- CLONE leaves its destination with a packet it owns, every other context as it was (41_packet.md R163, R168). -/
theorem situation_cloned {s s1 : State} (h : Invariant s) (p : State) {dst : Nat} (src : Nat) (a : Word)
    (hcfg : s1.cfg = s.cfg) (hctxs : s1.ctxs = s.ctxs) (hdst : dst < s.cfg.nCtx) (c : Nat) :
    situation (cloned dst src a p s s1) c = if c = dst then .ownedClone else situation s c := by
  have hcfg' : (cloned dst src a p s s1).cfg = s.cfg := (cloned_cfg dst src a p s s1).trans hcfg
  by_cases hc : c = dst
  · subst hc
    have hctx : (cloned c src a p s s1).ctx c = cloneCtx s c src a := by
      rw [ctx_cloned, ctx_setCtx_same s1 _ (by rwa [hctxs, h.count])]
    rw [if_pos rfl]
    refine situation_owned (by rw [hctx]) ?_
    rw [hctx, hcfg']
    exact winAddr_toNat h.cfg hdst
  · have hctx : (cloned dst src a p s s1).ctx c = s.ctx c := by
      rw [ctx_cloned, ctx_setCtx_other s1 _ hc, ctx_congr hcfg hctxs]
    rw [if_neg hc]
    exact situation_congr hcfg' (by rw [hctx]) (by rw [hctx])

/-- Settles O58, by the ways a command can end (`Ends`); that the fourth situation is left out is R43 (c). -/
theorem contextLifecycle : Obligations.ContextLifecycle := by
  intro s t i c hs hc ht
  have hinv := (inv_iff s).1 hs
  have hends := exec_ends ht
  refine ⟨situation_ne_broken (hends.invariant hinv) (hends.cfg ▸ hc), ?_⟩
  cases hends with
  | failed | allocFailed => exact .inl rfl
  | finished _ hpass =>
    by_cases hbind : i = .bind c
    · subst hbind
      obtain ⟨hbefore, hafter⟩ := situation_bind hinv hpass
      exact .inr (.inl ⟨rfl, rfl, hbefore, hafter⟩)
    · by_cases hrelease : i = .release c
      · subst hrelease
        exact .inr (.inr (.inr ⟨rfl, rfl, situation_released hinv hc⟩))
      · exact .inl (commandDone_situation s hbind hrelease)
  | @cloned dst src a answers draws hpass =>
    obtain ⟨hdst, _, _, hb, _⟩ := (cloneChecks_passed dst src s).1 hpass
    have hafter := situation_cloned (s1 := s.granted dst.toNat (s.ctx src.toNat).plen a answers draws) hinv s
      src.toNat a rfl rfl hdst c.toNat
    by_cases hcd : c.toNat = dst.toNat
    · obtain rfl := BitVec.eq_of_toNat_eq hcd
      exact .inr (.inr (.inl ⟨src, rfl, rfl, situation_ne_ownedClone hb, hafter.trans (if_pos rfl)⟩))
    · exact .inl (hafter.trans (if_neg hcd))

end Sys2Proof.Machine

namespace Sys2Proof.Machine

/-! ## A command on one context and the packet of another -/

/-- The regions of a packet: its header and its payload (41_packet.md R162). -/
abbrev Ctx.regions (x : Ctx) : List Region := [(x.hbase.toNat, 20), (x.paddr.toNat, x.plen.toNat)]

/-- A region is off a packet: it shares no address with the header or the payload. -/
abbrev OffPacket (r : Region) (x : Ctx) : Prop := ∀ q ∈ x.regions, overlaps r q = false

theorem offPacket_iff (r : Region) (x : Ctx) :
    OffPacket r x ↔
      overlaps r (x.hbase.toNat, 20) = false ∧ overlaps r (x.paddr.toNat, x.plen.toNat) = false := by
  simp only [OffPacket, List.forall_mem_cons, List.not_mem_nil, false_implies, implies_true, and_true]

/-- Disjoint regions share no address. -/
theorem not_inRegion_of_disjoint {r q : Region} (h : overlaps r q = false) {z : Nat} (hz : inRegion q z = true) :
    ¬(r.1 ≤ z ∧ z < r.1 + r.2) := by
  rw [inRegion_iff] at hz
  have hk := (overlaps_eq_false_iff r q).1 h (z - q.1) (by omega)
  rwa [Nat.add_sub_cancel' hz.1] at hk

/-- A command on a context stores to words of its header, or to its window (RELEASE), CLONE apart (20_memory.md R66). -/
theorem storeRegions_on_context {s t : State} {i : Instr} (hclone : ∀ dst src, i ≠ .clone dst src)
    (hpass : firstError (commandChecks s i) = none) (huses : i.fields.usesCtx = true) {r : Region}
    (hr : r ∈ storeRegions s t i) :
    r = (winAddr s.cfg i.fields.ctx, 20) ∨ ∃ w ≤ 4, r = (s.hdrAddr i.fields.ctx w, 4) := by
  cases i with
  | clone dst src => exact absurd rfl (hclone dst src)
  | setWord c =>
    simp only [firstError_none, commandChecks, List.forall_mem_cons, badIndex_passed] at hpass
    obtain ⟨_, hindex, _⟩ := hpass
    exact .inr ⟨_, hindex, List.mem_singleton.1 hr⟩
  | setFrameId | setChunkId | setTotalChunks => exact .inr ⟨4, by decide, List.mem_singleton.1 hr⟩
  | setFrameDeadline => exact .inr ⟨2, by decide, List.mem_singleton.1 hr⟩
  | pack c lp rp =>
    rcases List.mem_cons.1 hr with hr | hr
    · exact .inr ⟨0, by decide, hr⟩
    · split at hr
      · exact .inr ⟨1, by decide, List.mem_singleton.1 hr⟩
      · simp at hr
  | release => exact .inl (List.mem_singleton.1 hr)
  | hsNew | hsGet | hsSet | hsSerialize | hsDeserialize => simp [Fields.usesCtx, Instr.fields] at huses
  | _ => simp [storeRegions] at hr

/-- A granted buffer is off every packet recorded in a context (20_memory.md R70 (c)). -/
theorem granted_offPacket {s : State} (h : Invariant s) {n a : Word} (hok : allocOk s n a = true) {d : Nat}
    (hd : d < s.cfg.nCtx) : OffPacket (a.toNat, n.toNat) (s.ctx d) := by
  intro r hr
  have hbusy : r ∈ allocBusy s := by
    have hctx : s.ctx d ∈ s.ctxs := by
      rw [State.ctx, List.getD_eq_getElem _ _ (by rwa [h.count])]
      exact List.getElem_mem _
    exact List.mem_cons_of_mem _ (List.mem_append_right _ (List.mem_flatMap.2 ⟨_, hctx, hr⟩))
  simp only [allocOk, Bool.and_eq_true, List.all_eq_true, Bool.not_eq_true'] at hok
  exact hok.2 r hbusy

/-- A granted buffer is off every window (20_memory.md R70 (c)). -/
theorem granted_off_window {s : State} {n a : Word} (hok : allocOk s n a = true) {c : Nat} (hc : c < s.cfg.nCtx) :
    overlaps (winAddr s.cfg c, 20) (a.toNat, n.toNat) = false := by
  obtain ⟨_, hat⟩ := (allocOk_iff s n a).1 hok
  rw [overlaps_eq_false_iff]
  intro k hk hin
  refine (hat k hk).2.1 ?_
  simp only [winAddr] at hin
  omega

theorem windows_disjoint (cfg : Config) {c d : Nat} (h : c ≠ d) :
    overlaps (winAddr cfg c, 20) (winAddr cfg d, 20) = false := by
  rw [overlaps_eq_false_iff]
  intro k hk hin
  simp only [winAddr] at hin hk
  omega

/-- A command on context c changes no byte of another context's packet that lies neither over c's header nor over c's
window: a buffer CLONE is given is off every recorded packet (41_packet.md R169, 20_memory.md R70 (c)). -/
theorem byteAt_of_other_packet {s u : State} (h : Invariant s) {i : Instr} (huses : i.fields.usesCtx = true)
    (hu : exec i s = .next u) {c d : Nat} (hc : i.fields.ctx = c) (hd : d < s.cfg.nCtx)
    (hheader : OffPacket ((s.ctx c).hbase.toNat, 20) (s.ctx d)) (hwindow : OffPacket (winAddr s.cfg c, 20) (s.ctx d))
    {z : Nat} (hz : ∃ q ∈ (s.ctx d).regions, inRegion q z = true) : u.byteAt z = s.byteAt z := by
  obtain ⟨q, hq, hz⟩ := hz
  have hnotHeader := not_inRegion_of_disjoint (hheader q hq) hz
  have hnotWindow := not_inRegion_of_disjoint (hwindow q hq) hz
  subst hc
  cases exec_ends hu with
  | failed | allocFailed => rfl
  | finished hclone hpass =>
    rw [byteAt_setErr]
    refine commandDone_byteAt_other s s i fun r hr => ?_
    rcases storeRegions_on_context hclone hpass huses hr with rfl | ⟨w, hw, rfl⟩
    · exact hnotWindow
    · simp only [State.hdrAddr]
      omega
  | @cloned dst src a answers draws _ hok =>
    have hnotBuffer := not_inRegion_of_disjoint (granted_offPacket h hok hd q hq) hz
    change ¬(winAddr s.cfg dst.toNat ≤ z ∧ z < winAddr s.cfg dst.toNat + hdrSize) at hnotWindow
    rw [byteAt_setErr, cloned_byteAt_other hnotWindow hnotBuffer]
    rfl

/-! ## A clone and its source -/

/-- What a CLONE that succeeds, with the buffer at a, leaves of the two packets (41_packet.md R163). -/
structure CloneDone (s t : State) (dst src : Nat) (a : Word) : Prop where
  dst_lt : dst < s.cfg.nCtx
  src_lt : src < s.cfg.nCtx
  src_ne_dst : src ≠ dst
  granted : allocOk s (s.ctx src).plen a = true
  clone_ctx : t.ctx dst = cloneCtx s dst src a
  source_ctx : t.ctx src = s.ctx src
  bytes : ∀ z, t.byteAt z =
    if winAddr s.cfg dst ≤ z ∧ z < winAddr s.cfg dst + 20 then
      s.byteAt ((s.ctx src).hbase.toNat + (z - winAddr s.cfg dst))
    else if a.toNat ≤ z ∧ z < a.toNat + (s.ctx src).plen.toNat then
      s.byteAt ((s.ctx src).paddr.toNat + (z - a.toNat))
    else s.byteAt z

/-- The inversion lemma of a CLONE that succeeds. -/
theorem exec_clone_done {s t : State} {dst src : Byte} (h : Invariant s) (ht : exec (.clone dst src) s = .next t)
    (herr : t.err = 0) : ∃ a, CloneDone s t dst.toNat src.toNat a := by
  cases exec_ends ht with
  | failed e => exact absurd (show e.code = 0 from herr) fun h0 => by simpa [h0] using e.code_range.1
  | finished hclone => exact absurd rfl (hclone dst src)
  | allocFailed => simp [ErrCode.code] at herr
  | cloned a answers draws hpass hok =>
    obtain ⟨hdst, hsrc, hne, _⟩ := (cloneChecks_passed dst src s).1 hpass
    have hne' : src.toNat ≠ dst.toNat := fun heq => hne (BitVec.eq_of_toNat_eq heq)
    have hbytes := cloned_byteAt h s answers draws hdst ((allocOk_iff s _ a).1 hok)
    refine ⟨a, hdst, hsrc, hne', hok, ?_, ?_, fun z => ?_⟩
    · rw [ctx_setErr, ctx_cloned]
      exact ctx_setCtx_same _ _ (show dst.toNat < s.ctxs.length by rwa [h.count])
    · rw [ctx_setErr, ctx_cloned, ctx_setCtx_other _ _ hne']
      rfl
    · rw [byteAt_setErr]
      exact hbytes z

section

variable {s t : State} {dst src : Nat} {a : Word}

/-- Byte k of the clone's header is what byte k of its source's was. -/
theorem CloneDone.header_byte (hc : CloneDone s t dst src a) {k : Nat} (hk : k < 20) :
    t.byteAt (winAddr s.cfg dst + k) = s.byteAt ((s.ctx src).hbase.toNat + k) := by
  rw [hc.bytes, if_pos ⟨by omega, by omega⟩, Nat.add_sub_cancel_left]

/-- Byte k of the clone's payload is what byte k of its source's was: the buffer is off the window. -/
theorem CloneDone.payload_byte (hc : CloneDone s t dst src a) {k : Nat} (hk : k < (s.ctx src).plen.toNat) :
    t.byteAt (a.toNat + k) = s.byteAt ((s.ctx src).paddr.toNat + k) := by
  have hnotWindow : ¬(winAddr s.cfg dst ≤ a.toNat + k ∧ a.toNat + k < winAddr s.cfg dst + 20) :=
    (overlaps_eq_false_iff _ _).1 (granted_off_window hc.granted hc.dst_lt) k hk
  rw [hc.bytes, if_neg hnotWindow, if_pos ⟨by omega, by omega⟩, Nat.add_sub_cancel_left]

/-- The clone's header and payload lie off its source's packet, which is not over the destination's window
(41_packet.md R169). -/
theorem CloneDone.off_source (hc : CloneDone s t dst src a) (h : Invariant s)
    (hwindow : OffPacket (winAddr s.cfg dst, 20) (s.ctx src)) :
    ∀ r ∈ [(winAddr s.cfg dst, 20), (a.toNat, (s.ctx src).plen.toNat)], OffPacket r (s.ctx src) := by
  intro r hr
  obtain rfl | rfl : r = _ ∨ r = _ := by simpa using hr
  · exact hwindow
  · exact granted_offPacket h hc.granted hc.src_lt

/-- CLONE leaves its source's bytes as they were. -/
theorem CloneDone.source_byte (hc : CloneDone s t dst src a) (h : Invariant s)
    (hwindow : OffPacket (winAddr s.cfg dst, 20) (s.ctx src)) {q : Region} (hq : q ∈ (s.ctx src).regions) {k : Nat}
    (hk : k < q.2) : t.byteAt (q.1 + k) = s.byteAt (q.1 + k) := by
  have hoff := hc.off_source h hwindow
  rw [hc.bytes, if_neg ((overlaps_eq_false_iff _ _).1 (hoff _ (.head _) q hq) k hk),
    if_neg ((overlaps_eq_false_iff _ _).1 (hoff _ (.tail _ (.head _)) q hq) k hk)]

end

/-- Settles O59: the two packets' regions are disjoint, so a command on either is off the other
(`byteAt_of_other_packet`). -/
theorem cloneIsIndependent : Obligations.CloneIsIndependent := by
  intro s t dst src x y hs ht herr hx hy hheader hpayload
  have h := (inv_iff s).1 hs
  have ht' := (exec_ends ht).invariant h
  have hcfg := (exec_ends ht).cfg
  obtain ⟨a, hc⟩ := exec_clone_done h ht herr
  rw [hc.source_ctx] at hx
  rw [hc.clone_ctx] at hy
  subst hx hy
  have hwin := winAddr_toNat h.cfg hc.dst_lt
  have hwindow := (offPacket_iff _ _).2 ⟨hheader, hpayload⟩
  have hoff := hc.off_source h hwindow
  rw [← hwin] at hoff
  refine ⟨rfl, fun k hk => ?_, fun k hk => ?_, hoff, fun u v i z hv huses hu => ?_⟩
  · exact (hwin ▸ hc.header_byte hk).trans (hc.source_byte h hwindow (.head _) hk).symm
  · exact (hc.payload_byte hk).trans (hc.source_byte h hwindow (.tail _ (.head _)) hk).symm
  · have hvcfg : v.cfg = t.cfg := by rw [hv]
    have hvctxs : v.ctxs = t.ctxs := by rw [hv]
    have hvmem : v.mem = t.mem := by rw [hv]
    have hverr : v.err = t.err := by rw [hv]
    have hv' : Invariant v := ht'.congr hvcfg hvctxs (by rw [hv]) (hvmem ▸ ht'.mem) (hverr ▸ ht'.err)
    have hvctx := ctx_congr hvcfg hvctxs
    have hvbyte := byteAt_congr hvcfg hvmem z
    rw [hcfg] at hvcfg
    have hclone := (hvctx dst.toNat).trans hc.clone_ctx
    have hsource := (hvctx src.toNat).trans hc.source_ctx
    refine ⟨fun hi hz => ?_, fun hi hz => ?_⟩
    · refine (byteAt_of_other_packet hv' huses hu hi (d := src.toNat) (hvcfg ▸ hc.src_lt) ?_ ?_ ?_).trans hvbyte
      · rw [hclone, hsource]
        exact hoff _ (.head _)
      · rw [hsource, hvcfg]
        exact hwindow
      · rw [hsource]
        simpa using hz
    · refine (byteAt_of_other_packet hv' huses hu hi (d := dst.toNat) (hvcfg ▸ hc.dst_lt) ?_ ?_ ?_).trans hvbyte
      · rw [hclone, hsource]
        intro r hr
        rw [overlaps_comm]
        exact hoff r hr _ (.head _)
      · rw [hclone, hvcfg, offPacket_iff, hwin]
        exact ⟨windows_disjoint s.cfg hc.src_ne_dst, granted_off_window hc.granted hc.src_lt⟩
      · rw [hclone]
        simpa using hz

end Sys2Proof.Machine

/-! # Proofs: the frame metadata family (42_frame_metadata.md)

A frame field is the bytes first to last of a header word, which are its bits 31 - 8 * first down to 24 - 8 * last. What
a field replacement does is said bit by bit, then byte by byte; one lemma each for what a setter stores, what its getter
returns and which bytes it leaves alone then serves all four fields, the deadline as the field of all four bytes. -/

namespace Sys2Proof.Machine

/-! ## The getters -/

/-- Settles O28. -/
theorem frameGettersReturnTheirBits : Obligations.FrameGettersReturnTheirBits := by
  intro s c
  have hchecks : ∀ i ∈ [Instr.getFrameId c, .getChunkId c, .getTotalChunks c],
      commandChecks s i = [noCtx s c, noHdr s c 4] := by
    simp [commandChecks]
  have hctx : ∀ i ∈ [Instr.getFrameId c, .getChunkId c, .getTotalChunks c, .getFrameDeadline c],
      ∃ rest, commandChecks s i = noCtx s c :: rest := by
    simp [commandChecks]
  refine ⟨fun hc i hi => ?_, fun hc hm i hi => exec_noHdr (hchecks i hi) hc hm, exec_noHdr (w := 2) rfl,
    fun hc hm => ⟨exec_getHdrField_top (by decide) rfl rfl hc hm,
      exec_getHdrField (hi := 15) (lo := 8) rfl rfl hc hm, exec_getHdrField_bottom (hi := 7) rfl rfl hc hm⟩,
    fun hc hm => ?_⟩
  · obtain ⟨rest, hrest⟩ := hctx i hi
    exact exec_noCtx hrest hc
  -- the whole word is the quotient by 2^0
  · rw [exec_getHdrField_top (lo := 0) (by decide) rfl rfl hc hm, Nat.pow_zero, Nat.div_one]

/-! ## What a field replacement holds -/

/-- A field replacement as what lies above the field, the field, and what lies below it (00_scope.md R11). -/
theorem replaceSlice_toNat_nested (v f : Word) {hi lo : Nat} (hlo : lo ≤ hi) (hhi : hi < 32) :
    (replaceSlice v hi lo f).toNat =
      2 ^ lo * (2 ^ (hi - lo + 1) * (v.toNat / 2 ^ (hi + 1)) + f.toNat % 2 ^ (hi - lo + 1)) + v.toNat % 2 ^ lo := by
  have hpow : 2 ^ (hi + 1) = 2 ^ lo * 2 ^ (hi - lo + 1) := by
    rw [← Nat.pow_add]
    congr 1
    omega
  rw [replaceSlice_toNat v f hi lo hlo hhi, hpow]
  ring

/-- A field replacement, bit by bit (00_scope.md R11). -/
theorem replaceSlice_getLsbD (v f : Word) {hi lo : Nat} (hlo : lo ≤ hi) (hhi : hi < 32) (k : Nat) :
    (replaceSlice v hi lo f).getLsbD k = if lo ≤ k ∧ k ≤ hi then f.getLsbD (k - lo) else v.getLsbD k := by
  simp only [← BitVec.testBit_toNat]
  rw [replaceSlice_toNat_nested v f hlo hhi, Nat.testBit_two_pow_mul_add _ (Nat.mod_lt _ (Nat.two_pow_pos lo))]
  by_cases hbelow : k < lo
  · rw [if_pos hbelow, if_neg (by omega), Nat.testBit_mod_two_pow, decide_eq_true hbelow, Bool.true_and]
  · rw [if_neg hbelow, Nat.testBit_two_pow_mul_add _ (Nat.mod_lt _ (Nat.two_pow_pos _))]
    by_cases hfield : k ≤ hi
    · have hk : k - lo < hi - lo + 1 := by omega
      rw [if_pos hk, if_pos (by omega), Nat.testBit_mod_two_pow, decide_eq_true hk, Bool.true_and]
    · rw [if_neg (by omega), if_neg (by omega), Nat.testBit_div_two_pow]
      congr 1
      omega

/-- What a field holds after its replacement is the operand, truncated to the field's width. -/
theorem slice_replaceSlice_toNat (v f : Word) {hi lo : Nat} (hlo : lo ≤ hi) (hhi : hi < 32) :
    (slice (replaceSlice v hi lo f) hi lo).toNat = f.toNat % 2 ^ (hi - lo + 1) := by
  rw [slice_toNat _ hi lo (by omega), replaceSlice_toNat_nested v f hlo hhi,
    Nat.mul_add_div (Nat.two_pow_pos lo), Nat.div_eq_of_lt (Nat.mod_lt _ (Nat.two_pow_pos lo)), Nat.add_zero,
    Nat.mul_add_mod, Nat.mod_mod]

/-- The field of all 32 bits is the word. -/
theorem replaceSlice_whole (v f : Word) : replaceSlice v 31 0 f = f := by
  apply BitVec.eq_of_getLsbD_eq
  intro k hk
  rw [replaceSlice_getLsbD v f (by decide) (by decide), if_pos (by omega), Nat.sub_zero]

theorem beByte_getLsbD (n i : Nat) {j : Nat} (hj : j < 8) : (beByte n i).getLsbD j = n.testBit (j + (24 - 8 * i)) := by
  rw [BitVec.getLsbD_ofNat, decide_eq_true hj, Bool.true_and, Nat.testBit_div_two_pow]

/-- Replacing the field of bytes first to last changes those bytes, to the operand's lowest ones (20_memory.md R62). -/
theorem beByte_replaceSlice (v f : Word) {first last i : Nat} (hfield : first ≤ last) (hlast : last < 4) (hi : i < 4) :
    beByte (replaceSlice v (31 - 8 * first) (24 - 8 * last) f).toNat i =
      if first ≤ i ∧ i ≤ last then beByte f.toNat (i + (3 - last)) else beByte v.toNat i := by
  apply BitVec.eq_of_getLsbD_eq
  intro j hj
  rw [beByte_getLsbD _ _ hj, BitVec.testBit_toNat, replaceSlice_getLsbD v f (by omega) (by omega)]
  by_cases hin : first ≤ i ∧ i ≤ last
  · rw [if_pos hin, if_pos (by omega), beByte_getLsbD _ _ hj, BitVec.testBit_toNat]
    congr 1
    omega
  · rw [if_neg hin, if_neg (by omega), beByte_getLsbD _ _ hj, BitVec.testBit_toNat]

/-! ## What a setter stores -/

section

variable {s : State} {c : Byte} {w first last : Nat} {v : Word}

/-- All that a setter of the bytes first to last of a mapped header word does to the bytes that agents read
(42_frame_metadata.md R209): the bytes beside the field are written back as they were. -/
theorem withHdrFieldSet_byteAt (hfield : first ≤ last) (hlast : last < 4)
    (hm : MappedAll s.cfg (hdrByteAddr s c (4 * w)) 4) (hwf : Memory.wf s.mem = true) (x : Nat) :
    (withHdrFieldSet s c w (31 - 8 * first) (24 - 8 * last) v).byteAt x =
      if hdrByteAddr s c (4 * w) + first ≤ x ∧ x ≤ hdrByteAddr s c (4 * w) + last then
        storedByte s.cfg x (beByte v.toNat (x - hdrByteAddr s c (4 * w) + (3 - last)))
      else s.byteAt x := by
  rw [withHdrFieldSet, byteAt_setHdr _ hm hwf]
  by_cases hword : hdrByteAddr s c (4 * w) ≤ x ∧ x < hdrByteAddr s c (4 * w) + 4
  · have hi : x - hdrByteAddr s c (4 * w) < 4 := by omega
    rw [if_pos hword, beByte_replaceSlice _ _ hfield hlast hi]
    by_cases hin : hdrByteAddr s c (4 * w) + first ≤ x ∧ x ≤ hdrByteAddr s c (4 * w) + last
    · rw [if_pos hin, if_pos (by omega)]
    · rw [if_neg hin, if_neg (by omega), beByte_hdr s c w hi, Nat.add_sub_cancel' hword.1, storedByte_byteAt]
  · rw [if_neg hword, if_neg (by omega)]

/-- A setter of one header byte stores the operand's lowest byte there. -/
theorem withHdrByteSet_byteAt {i : Nat} (hi : i < 4) (hm : MappedAll s.cfg (hdrByteAddr s c (4 * w)) 4)
    (hwf : Memory.wf s.mem = true) (x : Nat) :
    (withHdrFieldSet s c w (31 - 8 * i) (24 - 8 * i) v).byteAt x =
      if x = hdrByteAddr s c (4 * w) + i then storedByte s.cfg x (BitVec.ofNat 8 v.toNat) else s.byteAt x := by
  rw [withHdrFieldSet_byteAt (Nat.le_refl i) hi hm hwf]
  by_cases hx : x = hdrByteAddr s c (4 * w) + i
  · have hlow : x - hdrByteAddr s c (4 * w) + (3 - i) = 3 := by omega
    rw [if_pos (by omega), if_pos hx, hlow, beByte, Nat.pow_zero, Nat.div_one]
  · rw [if_neg (by omega), if_neg hx]

/-- A setter of the upper half of a header word stores the operand's two lowest bytes there. -/
theorem withHdrHalfSet_byteAt (hm : MappedAll s.cfg (hdrByteAddr s c (4 * w)) 4) (hwf : Memory.wf s.mem = true)
    (x : Nat) :
    (withHdrFieldSet s c w 31 16 v).byteAt x =
      if x = hdrByteAddr s c (4 * w) then storedByte s.cfg x (BitVec.ofNat 8 (v.toNat / 2 ^ 8))
      else if x = hdrByteAddr s c (4 * w) + 1 then storedByte s.cfg x (BitVec.ofNat 8 v.toNat)
      else s.byteAt x := by
  rw [withHdrFieldSet_byteAt (first := 0) (last := 1) (by decide) (by decide) hm hwf]
  by_cases h0 : x = hdrByteAddr s c (4 * w)
  · have hindex : x - hdrByteAddr s c (4 * w) + (3 - 1) = 2 := by omega
    rw [if_pos (by omega), if_pos h0, hindex]
  · by_cases h1 : x = hdrByteAddr s c (4 * w) + 1
    · have hindex : x - hdrByteAddr s c (4 * w) + (3 - 1) = 3 := by omega
      rw [if_pos (by omega), if_neg h0, if_pos h1, hindex, beByte, Nat.pow_zero, Nat.div_one]
    · rw [if_neg (by omega), if_neg h0, if_neg h1]

end

/-- Settles O29. -/
theorem frameSettersStoreTheirBytes : Obligations.FrameSettersStoreTheirBytes := by
  intro s c hs
  have hwf := ((inv_iff s).1 hs).mem.canonical
  have hchecks : ∀ i ∈ [Instr.setFrameId c, .setChunkId c, .setTotalChunks c],
      commandChecks s i = [noCtx s c, noHdr s c 4] := by
    simp [commandChecks]
  exact ⟨fun hc i hi => exec_noCtx (hchecks i hi) hc, fun hc hm i hi => exec_noHdr (hchecks i hi) hc hm,
    fun hc hm => ⟨⟨_, exec_hdrDone rfl hc hm, rfl, withHdrHalfSet_byteAt hm hwf⟩,
      ⟨_, exec_hdrDone rfl hc hm, rfl, withHdrByteSet_byteAt (i := 2) (by decide) hm hwf⟩,
      ⟨_, exec_hdrDone rfl hc hm, rfl, withHdrByteSet_byteAt (i := 3) (by decide) hm hwf⟩⟩⟩

/-- Settles O30: word 2 is stored whole. -/
theorem setFrameDeadlineStoresWordTwo : Obligations.SetFrameDeadlineStoresWordTwo := by
  intro s c hs
  exact ⟨exec_noCtx rfl, exec_noHdr (w := 2) rfl, fun hc hm =>
    ⟨_, exec_hdrDone rfl hc hm, rfl, byteAt_setHdr s.arg0 hm ((inv_iff s).1 hs).mem.canonical⟩⟩

/-- SET_FRAMEDEADLINE sets the field of all four bytes of word 2 (42_frame_metadata.md R208). -/
theorem setFrameDeadline_eq_fieldSet (s : State) (c : Byte) :
    commandDone s (.setFrameDeadline c) = withHdrFieldSet s c 2 31 0 s.arg0 := by
  rw [withHdrFieldSet, replaceSlice_whole, commandDone]

/-! ## What a getter returns after its setter -/

/-- A header word that is stored over no reserved window byte is read back (00_scope.md R14, 20_memory.md R67). -/
theorem hdr_setHdr {s : State} {c : Byte} {w : Nat} (v : Word) (hm : MappedAll s.cfg (hdrByteAddr s c (4 * w)) 4)
    (hr : ∀ k < 4, reservedByte s.cfg (hdrByteAddr s c (4 * w + k)) = false) (hwf : Memory.wf s.mem = true) :
    (s.setHdr c.toNat w v).hdr c.toNat w = v := by
  have hlast := (hm 3 (by decide)).1
  refine wordAt_writeWord_same s (hdrByteAddr s c (4 * w)) v (by omega) hwf fun k hk => ?_
  rw [Nat.add_assoc]
  exact hr k hk

/-- What a setter stores its getter returns, modulo the field's width, where the header is mapped and over no reserved
window byte (42_frame_metadata.md R210). -/
theorem getter_returns_set_field {s : State} {setter getter : Instr} {c : Byte} {w hi lo : Nat} {v : Word} (hw : w < 5)
    (hlo : lo ≤ hi) (hhi : hi < 32) (hset : commandChecks s setter = [noCtx s c, noHdr s c w])
    (hsetDone : commandDone s setter = withHdrFieldSet s c w hi lo v)
    (hget : ∀ t, commandChecks t getter = [noCtx t c, noHdr t c w])
    (hgetDone : ∀ t, commandDone t getter = withHdrField t c w hi lo) (hc : c.toNat < s.cfg.nCtx)
    (hr : ∀ k < 20, reservedByte s.cfg (hdrByteAddr s c k) = false) (hm : MappedAll s.cfg (hdrByteAddr s c 0) 20)
    (hwf : Memory.wf s.mem = true) :
    ∃ t u, exec setter s = .next t ∧ exec getter t = .next u ∧ u.err = 0 ∧
      u.res0.toNat = v.toNat % 2 ^ (hi - lo + 1) := by
  have hmapped : MappedAll s.cfg (hdrByteAddr s c (4 * w)) 4 := fun k hk => by
    have hbyte := hm (4 * w + k) (by omega)
    rwa [← Nat.add_assoc] at hbyte
  have hword : (withHdrFieldSet s c w hi lo v).hdr c.toNat w = replaceSlice (s.hdr c.toNat w) hi lo v :=
    hdr_setHdr _ hmapped (fun k hk => hr (4 * w + k) (by omega)) hwf
  have ht := exec_hdrDone hset hc hmapped
  rw [hsetDone] at ht
  refine ⟨_, _, ht, exec_hdrDone (hget _) hc hmapped, rfl, ?_⟩
  rw [hgetDone]
  show (slice ((withHdrFieldSet s c w hi lo v).hdr c.toNat w) hi lo).toNat = _
  rw [hword, slice_replaceSlice_toNat _ _ hlo hhi]

/-- Settles O31. -/
theorem frameMaskingLaw : Obligations.FrameMaskingLaw := by
  intro s c v hs hc hr hm
  have hwf := ((inv_iff s).1 hs).mem.canonical
  refine ⟨?_, ?_, ?_, ?_⟩
  · exact getter_returns_set_field (w := 4) (hi := 31) (lo := 16) (by decide) (by decide) (by decide) rfl rfl
      (fun _ => rfl) (fun _ => rfl) hc hr hm hwf
  · exact getter_returns_set_field (w := 4) (hi := 15) (lo := 8) (by decide) (by decide) (by decide) rfl rfl
      (fun _ => rfl) (fun _ => rfl) hc hr hm hwf
  · exact getter_returns_set_field (w := 4) (hi := 7) (lo := 0) (by decide) (by decide) (by decide) rfl rfl
      (fun _ => rfl) (fun _ => rfl) hc hr hm hwf
  · obtain ⟨t, u, ht, hu, herr, hres⟩ := getter_returns_set_field (s := { s with arg0 := v })
      (getter := .getFrameDeadline c) (by decide) (by decide) (by decide) rfl (setFrameDeadline_eq_fieldSet _ c)
      (fun _ => rfl) (fun _ => rfl) hc hr hm hwf
    exact ⟨t, u, ht, hu, herr, BitVec.eq_of_toNat_eq (hres.trans (Nat.mod_eq_of_lt v.isLt))⟩

/-! ## What a setter leaves alone -/

/-- The header of context c stays in its place, and no byte changes but header bytes first to last. -/
structure OnlyHdrBytes (s t : State) (c : Byte) (first last : Nat) : Prop where
  hbase : (t.ctx c.toNat).hbase = (s.ctx c.toNat).hbase
  byteAt : ∀ x, ¬(hdrByteAddr s c first ≤ x ∧ x ≤ hdrByteAddr s c last) → t.byteAt x = s.byteAt x

/-- A setter of the bytes first to last of a header word changes no other byte, whether it finishes or fails
(42_frame_metadata.md R209, 60_exceptions.md R262). -/
theorem onlyHdrBytes_of_setter {s t : State} {i : Instr} {c : Byte} {w first last : Nat} {v : Word}
    (hchecks : commandChecks s i = [noCtx s c, noHdr s c w])
    (hdone : commandDone s i = withHdrFieldSet s c w (31 - 8 * first) (24 - 8 * last) v) (hfield : first ≤ last)
    (hlast : last < 4) (hwf : Memory.wf s.mem = true) (ht : exec i s = .next t) :
    OnlyHdrBytes s t c (4 * w + first) (4 * w + last) := by
  by_cases hc : c.toNat < s.cfg.nCtx
  · by_cases hm : MappedAll s.cfg (hdrByteAddr s c (4 * w)) 4
    · rw [exec_hdrDone hchecks hc hm, hdone] at ht
      cases ht
      refine ⟨rfl, fun x hx => (withHdrFieldSet_byteAt hfield hlast hm hwf x).trans (if_neg ?_)⟩
      rwa [Nat.add_assoc, Nat.add_assoc]
    · rw [exec_noHdr hchecks hc hm] at ht
      cases ht
      exact ⟨rfl, fun _ _ => rfl⟩
  · rw [exec_noCtx hchecks (Nat.le_of_not_lt hc)] at ht
    cases ht
    exact ⟨rfl, fun _ _ => rfl⟩

section

variable {s t : State} {c : Byte} {w first last : Nat}

theorem OnlyHdrBytes.hdrByte (h : OnlyHdrBytes s t c first last) {k : Nat} (hk : k < first ∨ last < k) :
    t.byteAt (hdrByteAddr t c k) = s.byteAt (hdrByteAddr s c k) := by
  rw [hdrByteAddr, h.hbase]
  refine h.byteAt _ ?_
  unfold hdrByteAddr
  omega

/-- A bit of a header word is a bit of the byte that holds it (20_memory.md R62). -/
theorem hdrValue_testBit (s : State) (c : Byte) (w : Nat) {n : Nat} (hn : n < 32) :
    (hdrValue s c w).testBit n = (s.byteAt (hdrByteAddr s c (4 * w + (3 - n / 8)))).getLsbD (n % 8) := by
  have hbyte := beByte_hdr s c w (i := 3 - n / 8) (by omega)
  rw [Nat.add_assoc] at hbyte
  rw [hdrByteAddr, ← hbyte, beByte_getLsbD _ _ (by omega), hdr_toNat]
  congr 1
  omega

/-- The bits of a header word that the changed bytes do not hold stay as they are. -/
theorem OnlyHdrBytes.testBit_eq (h : OnlyHdrBytes s t c first last) {n : Nat}
    (hbyte : n < 32 → 4 * w + (3 - n / 8) < first ∨ last < 4 * w + (3 - n / 8)) :
    (hdrValue t c w).testBit n = (hdrValue s c w).testBit n := by
  by_cases hn : n < 32
  · rw [hdrValue_testBit t c w hn, hdrValue_testBit s c w hn, h.hdrByte (hbyte hn)]
  · rw [← hdr_toNat, ← hdr_toNat, BitVec.testBit_toNat, BitVec.testBit_toNat,
      BitVec.getLsbD_of_ge _ n (by omega), BitVec.getLsbD_of_ge _ n (by omega)]

/-- The header words that hold none of the bytes keep their values. -/
theorem OnlyHdrBytes.hdrValue_eq (h : OnlyHdrBytes s t c first last) (hw : 4 * w + 3 < first ∨ last < 4 * w) :
    hdrValue t c w = hdrValue s c w :=
  Nat.eq_of_testBit_eq fun _ => h.testBit_eq (by omega)

/-- The first k bytes of a header word keep their value if the changed bytes come after them. -/
theorem OnlyHdrBytes.hdrValue_div (h : OnlyHdrBytes s t c first last) {k : Nat} (hfirst : 4 * w + k ≤ first) :
    hdrValue t c w / 2 ^ (32 - 8 * k) = hdrValue s c w / 2 ^ (32 - 8 * k) := by
  apply Nat.eq_of_testBit_eq
  intro n
  rw [Nat.testBit_div_two_pow, Nat.testBit_div_two_pow]
  exact h.testBit_eq (by omega)

/-- The bytes of a header word from byte k on keep their value if the changed bytes come before them. -/
theorem OnlyHdrBytes.hdrValue_mod (h : OnlyHdrBytes s t c first last) {k : Nat} (hlast : last < 4 * w + k) :
    hdrValue t c w % 2 ^ (32 - 8 * k) = hdrValue s c w % 2 ^ (32 - 8 * k) := by
  apply Nat.eq_of_testBit_eq
  intro n
  rw [Nat.testBit_mod_two_pow, Nat.testBit_mod_two_pow]
  by_cases hn : n < 32 - 8 * k
  · rw [h.testBit_eq (by omega)]
  · rw [decide_eq_false hn, Bool.false_and, Bool.false_and]

end

/-- Settles O32: only the field's own bytes change, so only the bits that they hold do. -/
theorem frameFieldsAreIndependent : Obligations.FrameFieldsAreIndependent := by
  intro s t c hs
  have hwf := ((inv_iff s).1 hs).mem.canonical
  have hothers {first : Nat} (hfirst : 16 ≤ first) {last : Nat} (h : OnlyHdrBytes s t c first last) :
      ∀ w ∈ [0, 1, 2, 3], hdrValue t c w = hdrValue s c w := fun w hw => by
    simp only [List.mem_cons, List.not_mem_nil, or_false] at hw
    exact h.hdrValue_eq (by omega)
  refine ⟨fun ht => ?_, fun ht => ?_, fun ht => ?_, fun ht => ?_⟩
  · have h := onlyHdrBytes_of_setter (first := 0) (last := 1) rfl rfl (by decide) (by decide) hwf ht
    exact ⟨h.hdrValue_mod (k := 2) (by decide), hothers (by decide) h, fun x h16 h17 =>
      h.byteAt x fun ⟨hge, hle⟩ => h17 (Nat.le_antisymm hle (Nat.lt_of_le_of_ne hge h16.symm))⟩
  · have h := onlyHdrBytes_of_setter (first := 2) (last := 2) rfl rfl (by decide) (by decide) hwf ht
    exact ⟨h.hdrValue_div (k := 2) (by decide), h.hdrValue_mod (k := 3) (by decide),
      hothers (by decide) h, fun x h18 => h.byteAt x fun ⟨hge, hle⟩ => h18 (Nat.le_antisymm hle hge)⟩
  · have h := onlyHdrBytes_of_setter (first := 3) (last := 3) rfl rfl (by decide) (by decide) hwf ht
    exact ⟨h.hdrValue_div (k := 3) (by decide), hothers (by decide) h,
      fun x h19 => h.byteAt x fun ⟨hge, hle⟩ => h19 (Nat.le_antisymm hle hge)⟩
  · have h := onlyHdrBytes_of_setter (first := 0) (last := 3) rfl (setFrameDeadline_eq_fieldSet s c) (by decide)
      (by decide) hwf ht
    refine ⟨fun w hw => ?_, h.byteAt⟩
    simp only [List.mem_cons, List.not_mem_nil, or_false] at hw
    exact h.hdrValue_eq (by omega)

end Sys2Proof.Machine

/-! # Proofs: the handshake family (43_handshake.md)

The first error of each command of the family in the words of its rule, then the serialized record as bytes: byte k of
the buffer is byte k % 4 of word k / 4, so a stored record is read back word by word. -/

namespace Sys2Proof.Machine

/-! ## The first error, check by check -/

/-- E_HS_SEALED (10_state.md R46). -/
theorem firstError_isSealed (s : State) (rest : List (Bool × ErrCode)) :
    firstError (isSealed s :: rest) = if s.sealed = true then some .hsSealed else firstError rest :=
  rfl

/-- The errors of a record's buffer in their order: its size, with the command's own error, then where it ends, then
what is mapped (43_handshake.md R235, R236). -/
theorem firstError_recordBuffer (s : State) (tooShort : ErrCode) :
    firstError [(s.arg1.toNat < hsSize, tooShort), badRange s.arg0 hsSize, unmapped s s.arg0.toNat hsSize] =
      if s.arg1.toNat < 48 then some tooShort
      else if 2 ^ 32 < s.arg0.toNat + 48 then some .range
      else if MappedAll s.cfg s.arg0.toNat 48 then none
      else some .bus := by
  have hmapped : mappedRegion s.cfg (s.arg0.toNat, 48) = true ↔ MappedAll s.cfg s.arg0.toNat 48 :=
    mappedRegion_iff (.inl (by decide))
  simp only [firstError, badRange, pastTop, unmapped, hsSize, Nat.zero_lt_succ, decide_true, Bool.true_and,
    decide_eq_true_eq, Bool.not_eq_true', ← Bool.not_eq_true, hmapped, ite_not]

/-- The errors of HS_SET in their order (43_handshake.md R234). -/
theorem firstError_hsSet (s : State) :
    firstError (commandChecks s .hsSet) =
      if 11 < s.arg0.toNat then some .arg else if s.sealed = true then some .hsSealed else none := by
  rw [commandChecks, firstError_badIndex, firstError_isSealed, firstError]

/-- The errors of HS_SERIALIZE in their order (43_handshake.md R235). -/
theorem firstError_hsSerialize (s : State) :
    firstError (commandChecks s .hsSerialize) =
      if s.arg1.toNat < 48 then some .hsCap
      else if 2 ^ 32 < s.arg0.toNat + 48 then some .range
      else if MappedAll s.cfg s.arg0.toNat 48 then none
      else some .bus :=
  firstError_recordBuffer s .hsCap

/-- The errors of HS_DESERIALIZE in their order (43_handshake.md R236). -/
theorem firstError_hsDeserialize (s : State) :
    firstError (commandChecks s .hsDeserialize) =
      if s.sealed = true then some .hsSealed
      else if s.arg1.toNat < 48 then some .hsSize
      else if 2 ^ 32 < s.arg0.toNat + 48 then some .range
      else if MappedAll s.cfg s.arg0.toNat 48 then none
      else some .bus := by
  rw [commandChecks, firstError_isSealed, firstError_recordBuffer]

/-! ## The field commands -/

/-- HS_NEW makes no check (43_handshake.md R232). -/
theorem exec_hsNew (s : State) : exec .hsNew s = .next { s with hs := .zero, sealed := false, err := 0 } :=
  exec_of_passed (by simp) rfl

/-- HS_SET changes the field of its index and no other (43_handshake.md R234). -/
theorem Handshake.get_set (h : Handshake) (v : Word) {k j : Nat} (hj : j < 12) :
    (h.set k v).get j = if j = k then v else h.get j := by
  by_cases hjk : j = k
  · rw [if_pos hjk, ← hjk, Handshake.get_set_same h hj]
  · rw [if_neg hjk, Handshake.get_set_other h hjk]

/-- Settles O34. -/
theorem handshakeFieldCommands : Obligations.HandshakeFieldCommands := by
  intro s
  have hget : firstError (commandChecks s .hsGet) = if 11 < s.arg0.toNat then some .arg else none := by
    rw [commandChecks, firstError_badIndex, firstError]
  have hset := firstError_hsSet s
  refine ⟨exec_hsNew s, fun hk => ⟨?_, ?_⟩, fun hk => ⟨?_, fun hsealed => ?_, fun hopen => ?_⟩⟩
  · exact exec_of_failed (e := .arg) (by rw [hget, if_pos hk])
  · exact exec_of_failed (e := .arg) (by rw [hset, if_pos hk])
  · exact exec_of_passed (by simp) (by rw [hget, if_neg (by omega)])
  · exact exec_of_failed (e := .hsSealed) (by rw [hset, if_neg (by omega), if_pos hsealed])
  · exact ⟨_, exec_of_passed (by simp) (by rw [hset, if_neg (by omega), if_neg (by simp [hopen])]), rfl,
      fun k hk => s.hs.get_set s.arg1 hk⟩

/-! ## The serialized record -/

@[simp] theorem Handshake.bytes_length (h : Handshake) : h.bytes.length = 48 := rfl

/-- Field k occupies bytes 4k to 4k+3, big-endian (43_handshake.md R231). -/
theorem Handshake.bytes_getD (h : Handshake) {k : Nat} (hk : k < 48) :
    h.bytes.getD k 0 = beByte (h.get (k / 4)).toNat (k % 4) :=
  flatMap_wordBytes_getD h.words k hk

/-- All that storing a record does to the bytes that agents read (43_handshake.md R235, 20_memory.md R67). -/
theorem byteAt_writeRecord (s : State) {a : Nat} (h : Handshake) (ha : a + 48 ≤ 2 ^ 32) (hwf : Memory.wf s.mem = true)
    (x : Nat) :
    (s.writeBytes a h.bytes).byteAt x =
      if a ≤ x ∧ x < a + 48 then storedByte s.cfg x (beByte (h.get ((x - a) / 4)).toNat ((x - a) % 4))
      else s.byteAt x := by
  rw [byteAt_writeBytes s a h.bytes ha hwf, Handshake.bytes_length]
  by_cases hx : a ≤ x ∧ x < a + 48
  · rw [if_pos hx, if_pos hx, h.bytes_getD (by omega)]
  · rw [if_neg hx, if_neg hx]

/-- A word is what its four bytes say (20_memory.md R62). -/
theorem wordAt_of_beBytes {s : State} {a : Nat} {v : Word} (h : ∀ i < 4, s.byteAt (a + i) = beByte v.toNat i) :
    s.wordAt a = v := by
  have h0 := h 0 (by decide)
  rw [Nat.add_zero] at h0
  rw [State.wordAt, h0, h 1 (by decide), h 2 (by decide), h 3 (by decide)]
  simpa [beByte] using wordOfBytes_of_wordBytes v

/-- The record that HS_DESERIALIZE reads, field by field (43_handshake.md R236). -/
theorem get_readRecord (s : State) (a : Nat) {k : Nat} (hk : k < 12) :
    (Handshake.ofWords (s.wordsAt a 12)).get k = s.wordAt (a + 4 * k) := by
  rw [Handshake.get_ofWords (wordsAt_length s 12 a), wordsAt_getD s 12 a k hk]

/-- Records that agree in each of their twelve fields are equal. -/
theorem Handshake.ext_get {h g : Handshake} (heq : ∀ k < 12, h.get k = g.get k) : h = g := by
  have hwords : h.words = g.words := List.ext_getElem rfl fun k hk hk' => by
    have hfield := heq k hk
    rwa [Handshake.get, Handshake.get, List.getD_eq_getElem _ _ hk, List.getD_eq_getElem _ _ hk'] at hfield
  rw [← h.ofWords_words, hwords, g.ofWords_words]

/-- A record stored over no reserved window byte is read back (43_handshake.md R237, 20_memory.md R67). -/
theorem readRecord_writeRecord (s : State) {a : Nat} (h : Handshake) (ha : a + 48 ≤ 2 ^ 32)
    (hwf : Memory.wf s.mem = true) (hr : ∀ k < 48, reservedByte s.cfg (a + k) = false) :
    Handshake.ofWords ((s.writeBytes a h.bytes).wordsAt a 12) = h := by
  apply Handshake.ext_get
  intro k hk
  rw [get_readRecord _ a hk]
  refine wordAt_of_beBytes fun i hi => ?_
  have hword : (a + 4 * k + i - a) / 4 = k := by omega
  have hbyte : (a + 4 * k + i - a) % 4 = i := by omega
  have hfree : reservedByte s.cfg (a + 4 * k + i) = false := by
    rw [Nat.add_assoc]
    exact hr (4 * k + i) (by omega)
  rw [byteAt_writeRecord s h ha hwf, if_pos (by omega), hword, hbyte, storedByte_of_not_reserved hfree]

/-! ## HS_SERIALIZE and HS_DESERIALIZE -/

/-- HS_SERIALIZE where its checks pass (43_handshake.md R235). -/
theorem exec_hsSerialize_done {s : State} (hcap : 48 ≤ s.arg1.toNat) (hfits : s.arg0.toNat + 48 ≤ 2 ^ 32)
    (hm : MappedAll s.cfg s.arg0.toNat 48) :
    exec .hsSerialize s =
      .next { s.writeBytes s.arg0.toNat s.hs.bytes with sealed := true, res0 := 48, err := 0 } :=
  exec_of_passed (by simp)
    (by rw [firstError_hsSerialize, if_neg (by omega), if_neg (by omega), if_pos hm])

/-- HS_DESERIALIZE where its checks pass (43_handshake.md R236). -/
theorem exec_hsDeserialize_done {s : State} (hopen : s.sealed = false) (hsize : 48 ≤ s.arg1.toNat)
    (hfits : s.arg0.toNat + 48 ≤ 2 ^ 32) (hm : MappedAll s.cfg s.arg0.toNat 48) :
    exec .hsDeserialize s = .next { s with hs := .ofWords (s.wordsAt s.arg0.toNat 12), res0 := 48, err := 0 } :=
  exec_of_passed (by simp)
    (by rw [firstError_hsDeserialize, if_neg (by simp [hopen]), if_neg (by omega), if_neg (by omega), if_pos hm])

/-- Settles O35. -/
theorem serializeWritesRecord : Obligations.SerializeWritesRecord := by
  intro s hs
  have hchecks := firstError_hsSerialize s
  refine ⟨fun hcap => ?_, fun hcap htop => ?_, fun hcap hfits hbus => ?_, fun hcap hfits hm => ?_⟩
  · exact exec_of_failed (e := .hsCap) (by rw [hchecks, if_pos hcap])
  · exact exec_of_failed (e := .range) (by rw [hchecks, if_neg (by omega), if_pos htop])
  · exact exec_of_failed (e := .bus) (by rw [hchecks, if_neg (by omega), if_neg (by omega), if_neg hbus])
  · exact ⟨_, exec_hsSerialize_done hcap hfits hm, rfl,
      byteAt_writeRecord s s.hs hfits ((inv_iff s).1 hs).mem.canonical⟩

/-- Settles O36. -/
theorem deserializeReadsRecord : Obligations.DeserializeReadsRecord := by
  intro s
  have hchecks := firstError_hsDeserialize s
  refine ⟨fun hsealed => ?_, fun hopen hsize => ?_, fun hopen hsize htop => ?_, fun hopen hsize hfits hbus => ?_,
    fun hopen hsize hfits hm => ?_⟩
  · exact exec_of_failed (e := .hsSealed) (by rw [hchecks, if_pos hsealed])
  · exact exec_of_failed (e := .hsSize) (by rw [hchecks, if_neg (by simp [hopen]), if_pos hsize])
  · exact exec_of_failed (e := .range) (by rw [hchecks, if_neg (by simp [hopen]), if_neg (by omega), if_pos htop])
  · exact exec_of_failed (e := .bus)
      (by rw [hchecks, if_neg (by simp [hopen]), if_neg (by omega), if_neg (by omega), if_neg hbus])
  · refine ⟨_, exec_hsDeserialize_done hopen hsize hfits hm, rfl, fun k hk => ?_⟩
    rw [get_readRecord s _ hk, wordAt_toNat]

/-- Settles O38, by the two errors of HS_DESERIALIZE that come before any other. -/
theorem shortDeserializeFails : Obligations.ShortDeserializeFails := by
  intro s hsize
  obtain ⟨hfailSealed, hfailSize, _⟩ := deserializeReadsRecord s
  cases hsealed : s.sealed with
  | true => exact ⟨_, hfailSealed hsealed, rfl, rfl, hsealed⟩
  | false => exact ⟨_, hfailSize hsealed hsize, rfl, rfl, hsealed⟩

/-- Settles O37: HS_NEW changes no byte, so HS_DESERIALIZE reads the record that HS_SERIALIZE stored. -/
theorem handshakeRoundTrip : Obligations.HandshakeRoundTrip := by
  intro s a cap n hs hfits hm hr hcap hn
  refine ⟨_, _, _, exec_hsSerialize_done hcap hfits hm, exec_hsNew _, rfl,
    exec_hsDeserialize_done rfl hn hfits hm, rfl, ?_⟩
  calc _ = Handshake.ofWords ((s.writeBytes a.toNat s.hs.bytes).wordsAt a.toNat 12) :=
        congrArg Handshake.ofWords (wordsAt_congr (fun _ => rfl) 12 a.toNat)
    _ = s.hs := readRecord_writeRecord s s.hs hfits ((inv_iff s).1 hs).mem.canonical hr

end Sys2Proof.Machine

/-! # Proofs: the exceptions family (60_exceptions.md)

The frame of an error comes from the ways a command can end (`Ends`); that every input completes comes from the
outcomes of a CMD write, without a race and with one (`CompletesOrBreaks`). -/

namespace Sys2Proof.Machine

/-! ## The idle block -/

/-- Settles O7. -/
theorem idleBlockKeepsState : Obligations.IdleBlockKeepsState := by
  intro s hidle
  simp only [step, hidle]

/-! ## All or nothing -/

/-- A command that ends with an error has changed STATUS alone, and the allocator's side of a request (60_exceptions.md
R262). -/
theorem Ends.state_of_error {p s t : State} {i : Instr} (h : Ends p s i t) (herr : t.err ≠ 0) :
    t = { s.failed t.err with
          allocAnswers := t.allocAnswers, draws := t.draws, allocTrace := t.allocTrace } := by
  cases h with
  | failed | allocFailed => rfl
  | finished | cloned => exact absurd rfl herr

/-- Of the commands that end with an error, only a CLONE answered Fail has been to the allocator (60_exceptions.md
R262, R265). -/
theorem Ends.allocator_of_error {p s t : State} {i : Instr} (h : Ends p s i t) (herr : t.err ≠ 0) :
    (t.allocAnswers = s.allocAnswers ∧ t.draws = s.draws ∧ t.allocTrace = s.allocTrace) ∨
      ∃ dst src n, i = .clone dst src ∧ t.err = 0x0B ∧ t.allocTrace = .alloc n none :: s.allocTrace := by
  cases h with
  | failed => exact .inl ⟨rfl, rfl, rfl⟩
  | @allocFailed dst src => exact .inr ⟨dst, src, (s.ctx src.toNat).plen, rfl, rfl, rfl⟩
  | finished | cloned => exact absurd rfl herr

/-- Settles O43, by the ways a command can end (`Ends`). -/
theorem failingCommandChangesOnlyStatus : Obligations.FailingCommandChangesOnlyStatus := by
  intro s t i ht
  have hends := exec_ends ht
  exact ⟨fun hok => by rw [hends.anyErr, if_pos hok],
    fun herr => ⟨hends.state_of_error herr, hends.allocator_of_error herr⟩⟩

/-! ## Every input completes -/

/-- The outcome of a CMD write of w is a next state, or w is a CLONE and the outcome the refusal of the answer lined up
for it, which breaks the allocator's contract (93_implementation_defined.md U9). -/
def CompletesOrBreaks (s : State) (w : Word) (outcome : Host.Outcome State Fault Refusal) : Prop :=
  (∃ t, outcome = .next t) ∨
    ∃ dst src a answers, decode w = .ok (.clone dst src) ∧ s.allocAnswers = some a :: answers ∧
      ¬AllocContract s (s.ctx src.toNat).plen.toNat a.toNat ∧ outcome = .refused (.allocContract a)

/-- A CLONE ends in its checks, or with the allocator's answer. -/
theorem cloneReading_completes (p s : State) {w : Word} {dst src : Byte} (hw : decode w = .ok (.clone dst src)) :
    CompletesOrBreaks s w (cloneReading dst src p s) := by
  unfold cloneReading
  cases firstError (cloneChecks dst src s) with
  | some e => exact .inl ⟨_, rfl⟩
  | none =>
    rcases requestAlloc_cases s dst.toNat (s.ctx src.toNat).plen with
      ⟨a, answers, hanswers, hbroken, hr⟩ | ⟨answers, draws, hr⟩ | ⟨a, answers, draws, _, hr⟩
    · have hcontract : ¬AllocContract s (s.ctx src.toNat).plen.toNat a.toNat := by
        rw [← allocOk_iff, hbroken]
        exact Bool.false_ne_true
      exact .inr ⟨dst, src, a, answers, hw, hanswers, hcontract, by rw [hr]⟩
    · exact .inl ⟨_, by rw [hr]; rfl⟩
    · exact .inl ⟨_, by rw [hr]; rfl⟩

/-- A command other than CLONE ends through its checks alone, whatever its second reads see. -/
theorem execReading_next (p s : State) {i : Instr} (hi : ∀ dst src, i ≠ .clone dst src) :
    ∃ t, execReading p i s = .next t := by
  obtain ⟨t, ht⟩ := complete_next s (commandDone s i) (commandChecks s i)
  rw [← exec_eq_complete s i hi] at ht
  rcases execReading_cases p i s with he | ⟨_, _, _, he⟩
  · exact ⟨t, he.trans ht⟩
  · exact ⟨_, he⟩

/-- Every CMD write completes, but for a CLONE under a broken answer (60_exceptions.md R260). -/
theorem issueReading_completes (p s : State) (w : Word) : CompletesOrBreaks s w (issueReading p w s) := by
  unfold issueReading
  cases hw : decode w with
  | error e => exact .inl ⟨_, rfl⟩
  | ok i =>
    by_cases hi : ∃ dst src, i = .clone dst src
    · obtain ⟨dst, src, rfl⟩ := hi
      exact cloneReading_completes p { s with cmd := w } hw
    · exact .inl (execReading_next p { s with cmd := w } fun dst src h => hi ⟨dst, src, h⟩)

theorem issue_completes (s : State) (w : Word) : CompletesOrBreaks s w (issue w s) := by
  rw [← issueReading_same (p := s) (fun _ => rfl) w]
  exact issueReading_completes s s w

/-- A race changes the bytes a command meets, not whether it completes (70_reset_and_hazards.md R308). -/
theorem raceWith_completes (pick : Nat → Nat) (w : Word) (stores : List (Word × Byte)) (s : State) :
    CompletesOrBreaks s w (raceWith pick w stores s) := by
  unfold raceWith
  rcases issueReading_completes (racePayload pick stores s) (raceView pick stores s) w with
    ⟨t, ht⟩ | ⟨dst, src, a, answers, hw, hanswers, hbroken, hrefused⟩
  · exact .inl ⟨_, by rw [ht]⟩
  · exact .inr ⟨dst, src, a, answers, hw, hanswers, hbroken, by rw [hrefused]⟩

/-- CMD stands at offset 0 alone (10_state.md R21). -/
theorem offset_of_cmd : ∀ {off : BitVec 6}, off.toNat % 4 = 0 → portReg off = .cmd → off = 0x00 := by decide

theorem step_of_cmdRaced {s : State} {w : Word} {stores : List (Word × Byte)} {rest : List Input}
    (hin : s.inputs = .cmdRaced w stores :: rest)
    (hmapped : ∀ x ∈ stores, mappedRegion s.cfg (x.1.toNat, 1) = true) :
    step s = issueRaced w stores { s with inputs := rest } := by
  have hfind : stores.find? (fun x => !mappedRegion s.cfg (x.1.toNat, 1)) = none := by
    simpa only [List.find?_eq_none, Bool.not_eq_true, Bool.not_eq_false'] using hmapped
  simp only [step_of_input hin, takeInput, hfind]

/-- Settles O51, input by input: the two that run a command complete as it does (`CompletesOrBreaks`), the others
always. -/
theorem definedInputsComplete : Obligations.DefinedInputsComplete := by
  intro s x rest hin hdef
  cases x with
  | portWrite off width v =>
    obtain ⟨rfl, halign⟩ := (portAccessOk_iff off width).1 hdef
    by_cases hreg : portReg off = .cmd
    · obtain rfl := offset_of_cmd halign hreg
      rw [step_of_cmdWrite hin]
      refine (issue_completes { s with inputs := rest } v).imp_right ?_
      rintro ⟨dst, src, a, answers, hbreaks⟩
      exact ⟨v, dst, src, a, answers, .inl rfl, hbreaks⟩
    · exact .inl ⟨_, step_of_portWrite hin halign hreg⟩
  | portRead off width =>
    obtain ⟨rfl, halign⟩ := (portAccessOk_iff off width).1 hdef
    exact .inl ⟨_, step_of_portRead hin halign⟩
  | memWrite8 | memWrite32 | memRead32 => exact .inl ⟨_, (step_of_input hin).trans (if_pos hdef)⟩
  | cmdRaced w stores =>
    rw [step_of_cmdRaced hin (List.all_eq_true.1 hdef)]
    refine (raceWith_completes _ w stores { s with inputs := rest }).imp_right ?_
    rintro ⟨dst, src, a, answers, hbreaks⟩
    exact ⟨w, dst, src, a, answers, .inr ⟨stores, rfl⟩, hbreaks⟩
  | platformReset | reclaim => exact .inl ⟨_, step_of_input hin⟩

end Sys2Proof.Machine

/-! # Proofs: the reset and hazards family (70_reset_and_hazards.md)

A race stores one picked byte for each racing store, both in the memory a command reads and in the memory it leaves
(`storePicked`). What such a row of stores does to a byte is said once; that R308's bound is kept and that every outcome
it admits is reached are then two readings of it. -/

namespace Sys2Proof.Machine

/-! ## The reset event -/

/-- Memory after a reset lists no window byte, so there it reads as 0 (10_state.md R49). -/
theorem ramAfterReset_read_window {cfg : Config} {a : Nat} (h : inRegion (windowRegion cfg) a = true) (k : Nat) :
    (ramAfterReset cfg k).read a = 0 := by
  refine List.foldlRecOn (motive := fun m => Memory.read m a = 0) (Config.ramAfterReset k) _ rfl fun m hm x _ => ?_
  split
  · exact hm
  · rename_i hx
    have hne : a ≠ x.1.toNat := fun e => hx (e ▸ h)
    rw [Memory.read_write_other x.2 hne m, hm]

/-- Settles O53. -/
theorem platformResetRestoresBlock : Obligations.PlatformResetRestoresBlock := by
  intro s rest _ hin
  refine ⟨State.platformReset { s with inputs := rest }, step_of_input hin, rfl, fun c hc k hk => ?_⟩
  have hwindow : inRegion (windowRegion s.cfg) (s.cfg.winBase + 32 * c + k) = true := by
    rw [inRegion_iff]
    dsimp only
    omega
  rw [byteAt_def]
  split
  · rfl
  · exact ramAfterReset_read_window hwindow s.draws

/-! ## The values of a race -/

theorem mem_racedValues {stores : List (Word × Byte)} {x : Word × Byte} (h : x ∈ stores) :
    x.2 ∈ racedValues stores x.1.toNat :=
  List.mem_map.2 ⟨x, List.mem_filter.2 ⟨h, beq_self_eq_true _⟩, rfl⟩

/-- An address races exactly when a store of another agent goes to it. -/
theorem racedValues_ne_nil (stores : List (Word × Byte)) (a : Nat) :
    racedValues stores a ≠ [] ↔ ∃ x ∈ stores, x.1.toNat = a := by
  simp [racedValues]

/-- A pick is one of the values there are to pick from. -/
theorem pickByte_mem (pick : Nat → Nat) (j : Nat) (b : Byte) (bs : List Byte) : pickByte pick j b bs ∈ b :: bs := by
  have hlt : pick j % (bs.length + 1) < (b :: bs).length := Nat.mod_lt _ (Nat.succ_pos _)
  rw [pickByte, List.getD_eq_getElem _ _ hlt]
  exact List.getElem_mem hlt

/-- Each of the values there are to pick from is picked by its position. -/
theorem pickByte_idxOf {pick : Nat → Nat} {j : Nat} {v b : Byte} {bs : List Byte} (hv : v ∈ b :: bs)
    (hpick : pick j = (b :: bs).idxOf v) : pickByte pick j b bs = v := by
  have hlt : (b :: bs).idxOf v < (b :: bs).length := List.idxOf_lt_length_of_mem hv
  rw [pickByte, hpick, ← List.length_cons, Nat.mod_eq_of_lt hlt, List.getD_eq_getElem _ _ hlt, List.getElem_idxOf]

/-! ## A row of racing stores -/

/-- One store for each entry of the list, of the value picked for its number and itself. -/
def storePicked (cfg : Config) (value : Nat → Word × Byte → Byte) : List (Word × Byte) → Nat → Memory → Memory
  | [], _, m => m
  | x :: rest, j, m => storePicked cfg value rest (j + 1) (storeByte cfg m x.1.toNat (value j x))

/-- The value that a racing command reads where x is stored, by pick number j. -/
def valueRead (pick : Nat → Nat) (old : State) (stores : List (Word × Byte)) (j : Nat) (x : Word × Byte) : Byte :=
  pickByte pick j (old.byteAt x.1.toNat) (racedValues stores x.1.toNat)

/-- The values a racing byte can end with: those stored to it, and the command's own if it stores one. -/
def valuesLeft (w : Word) (view t : State) (stores : List (Word × Byte)) (a : Nat) : List Byte :=
  racedValues stores a ++ if commandStores w view t a then [t.byteAt a] else []

theorem racedView_eq_storePicked (pick : Nat → Nat) (old : State) (stores : List (Word × Byte)) :
    ∀ (todo : List (Word × Byte)) (j : Nat) (m : Memory),
      racedView pick old stores todo j m = storePicked old.cfg (valueRead pick old stores) todo j m
  | [], _, _ => rfl
  | _ :: rest, j, _ => racedView_eq_storePicked pick old stores rest (j + 1) _

theorem racedEnd_eq_storePicked (pick : Nat → Nat) (w : Word) (view t : State) (stores : List (Word × Byte)) :
    ∀ (todo : List (Word × Byte)) (j : Nat) (m : Memory),
      racedEnd pick w view t stores todo j m =
        storePicked t.cfg (fun k x => pickByte pick k x.2 (valuesLeft w view t stores x.1.toNat)) todo j m
  | [], _, _ => rfl
  | _ :: rest, j, _ => racedEnd_eq_storePicked pick w view t stores rest (j + 1) _

theorem storePicked_congr {cfg : Config} {value value' : Nat → Word × Byte → Byte} :
    ∀ {todo : List (Word × Byte)} {j : Nat} (m : Memory),
      (∀ k < todo.length, value (j + k) = value' (j + k)) →
      storePicked cfg value todo j m = storePicked cfg value' todo j m
  | [], _, _, _ => rfl
  | x :: rest, j, m, h => by
    have hfirst : value j = value' j := h 0 (Nat.succ_pos _)
    have hrest : ∀ k < rest.length, value (j + 1 + k) = value' (j + 1 + k) := fun k hk => by
      rw [Nat.add_assoc, Nat.add_comm 1 k]
      exact h (k + 1) (Nat.succ_lt_succ hk)
    rw [storePicked, storePicked, hfirst, storePicked_congr _ hrest]

theorem read_storePicked_other {cfg : Config} {value : Nat → Word × Byte → Byte} {a : Nat} :
    ∀ {todo : List (Word × Byte)} {j : Nat} {m : Memory}, (∀ x ∈ todo, x.1.toNat ≠ a) →
      Memory.read (storePicked cfg value todo j m) a = Memory.read m a
  | [], _, _, _ => rfl
  | x :: rest, j, m, h => by
    rw [List.forall_mem_cons] at h
    rw [storePicked, read_storePicked_other h.2, read_storeByte_other cfg m _ (Ne.symm h.1)]

/-- An address that is stored to ends with the value picked for one of its stores, the last one. -/
theorem read_storePicked_same {cfg : Config} {value : Nat → Word × Byte → Byte} {a : Nat}
    (hr : reservedByte cfg a = false) :
    ∀ {todo : List (Word × Byte)} {j : Nat} {m : Memory}, Memory.wf m = true → (∃ x ∈ todo, x.1.toNat = a) →
      ∃ k x, todo[k]? = some x ∧ x.1.toNat = a ∧
        Memory.read (storePicked cfg value todo j m) a = value (j + k) x
  | x :: rest, j, m, hm, hstored => by
    rw [storePicked]
    by_cases hlater : ∃ y ∈ rest, y.1.toNat = a
    case pos =>
      obtain ⟨k, y, hy, hya, hread⟩ :=
        read_storePicked_same hr (j := j + 1) (storeByte_wf cfg (value j x) x.1.isLt hm) hlater
      refine ⟨k + 1, y, hy, hya, ?_⟩
      rw [hread, Nat.add_assoc, Nat.add_comm 1 k]
    case neg =>
      have hx : x.1.toNat = a := by
        rw [List.exists_mem_cons_iff] at hstored
        exact hstored.resolve_right hlater
      refine ⟨0, x, rfl, hx, ?_⟩
      rw [read_storePicked_other fun y hy hya => hlater ⟨y, hy, hya⟩, hx, read_storeByte_same cfg m _ hm hr,
        Nat.add_zero]

/-- The position of the value to be read where x is stored, among the values a read can return. -/
def readPick (s : State) (stores : List (Word × Byte)) (readValue : Nat → Byte) (x : Word × Byte) : Nat :=
  (s.byteAt x.1.toNat :: racedValues stores x.1.toNat).idxOf (readValue x.1.toNat)

section
variable {s t : State} {value : Nat → Word × Byte → Byte} {stores : List (Word × Byte)} {j a : Nat}

/-- What a row of stores leaves as it was: every byte that no store goes to, and the reserved window bytes
(20_memory.md R67). -/
theorem byteAt_storePicked_other (hcfg : t.cfg = s.cfg) (hmem : t.mem = storePicked s.cfg value stores j s.mem)
    (h : reservedByte s.cfg a = true ∨ ∀ x ∈ stores, x.1.toNat ≠ a) : t.byteAt a = s.byteAt a := by
  rcases h with hr | hne
  · rw [byteAt_reserved s hr, byteAt_reserved t (hcfg ▸ hr)]
  · rw [byteAt_def, byteAt_def, hcfg, hmem, read_storePicked_other hne]

/-- What a row of stores gives a byte that one of them goes to. -/
theorem byteAt_storePicked_same (hcfg : t.cfg = s.cfg) (hmem : t.mem = storePicked s.cfg value stores j s.mem)
    (hwf : Memory.wf s.mem = true) (hr : reservedByte s.cfg a = false) (hstored : ∃ x ∈ stores, x.1.toNat = a) :
    ∃ k x, stores[k]? = some x ∧ x.1.toNat = a ∧ t.byteAt a = value (j + k) x := by
  obtain ⟨k, x, hx, hxa, hread⟩ := read_storePicked_same (value := value) hr (j := j) hwf hstored
  exact ⟨k, x, hx, hxa, by rw [byteAt_def, hcfg, hmem, if_neg (by simp [hr]), hread]⟩

/-! ## What a racing command reads -/

variable {pick : Nat → Nat}

/-- A byte read in a race is the value held before or one being written, whichever picks are made. -/
theorem byteAt_racedView (hcfg : t.cfg = s.cfg) (hmem : t.mem = racedView pick s stores stores j s.mem)
    (hwf : Memory.wf s.mem = true) (a : Nat) : t.byteAt a = s.byteAt a ∨ t.byteAt a ∈ racedValues stores a := by
  rw [racedView_eq_storePicked] at hmem
  by_cases hkept : reservedByte s.cfg a = true ∨ ∀ x ∈ stores, x.1.toNat ≠ a
  · exact .inl (byteAt_storePicked_other hcfg hmem hkept)
  · simp only [not_or, Bool.not_eq_true, not_forall, not_not, exists_prop] at hkept
    obtain ⟨k, x, _, rfl, hbyte⟩ := byteAt_storePicked_same hcfg hmem hwf hkept.1 hkept.2
    rw [hbyte]
    exact List.mem_cons.1 (pickByte_mem pick (j + k) _ _)

/-- Picks by the position of a value make a racing byte read as that value. -/
theorem byteAt_racedView_picked (hcfg : t.cfg = s.cfg) (hmem : t.mem = racedView pick s stores stores j s.mem)
    (hwf : Memory.wf s.mem = true) {readValue : Nat → Byte}
    (hvalue : ∀ x ∈ stores, readValue x.1.toNat ∈ s.byteAt x.1.toNat :: racedValues stores x.1.toNat)
    (hpick : ∀ k x, stores[k]? = some x → pick (j + k) = readPick s stores readValue x)
    {x : Word × Byte} (hx : x ∈ stores) (hr : reservedByte s.cfg x.1.toNat = false) :
    t.byteAt x.1.toNat = readValue x.1.toNat := by
  rw [racedView_eq_storePicked] at hmem
  obtain ⟨k, y, hy, hyx, hbyte⟩ := byteAt_storePicked_same hcfg hmem hwf hr ⟨x, hx, rfl⟩
  rw [hbyte, ← hyx]
  exact pickByte_idxOf (hvalue y (List.mem_of_getElem? hy)) (hpick k y hy)

end

/-- The memory a racing command reads is settled by the picks made for those reads. -/
theorem racedView_congr {pick pick' : Nat → Nat} {stores : List (Word × Byte)} {j : Nat} (s : State) (m : Memory)
    (h : ∀ k < stores.length, pick' (j + k) = pick (j + k)) :
    racedView pick' s stores stores j m = racedView pick s stores stores j m := by
  simp only [racedView_eq_storePicked]
  refine storePicked_congr m fun k hk => funext fun x => ?_
  simp only [valueRead, pickByte, h k hk]

/-! ## What a race leaves -/

/-- The state after a race whose command ended in u. -/
def raceLeft (pick : Nat → Nat) (w : Word) (stores : List (Word × Byte)) (s u : State) : State :=
  { u with mem := racedEnd pick w (raceView pick stores s) u stores stores (2 * stores.length) u.mem }

theorem raceWith_of_next {pick : Nat → Nat} {w : Word} {stores : List (Word × Byte)} {s u : State}
    (hu : issueReading (racePayload pick stores s) w (raceView pick stores s) = .next u) :
    raceWith pick w stores s = .next (raceLeft pick w stores s u) := by
  simp only [raceWith, hu, raceLeft]

/-- The inversion lemma of a race. -/
theorem raceWith_cases {pick : Nat → Nat} {w : Word} {stores : List (Word × Byte)} {s t : State}
    (h : raceWith pick w stores s = .next t) :
    ∃ u, issueReading (racePayload pick stores s) w (raceView pick stores s) = .next u ∧
      t = raceLeft pick w stores s u := by
  unfold raceWith at h
  split at h
  case h_1 u hu => exact ⟨u, hu, (Host.Outcome.next.inj h).symm⟩
  case h_2 => cases h
  case h_3 => cases h

theorem issueReading_cfg {p s t : State} {w : Word} (h : issueReading p w s = .next t) : t.cfg = s.cfg := by
  rcases issueReading_cases h with ⟨i, _, hends⟩ | ⟨e, _, rfl⟩
  · exact hends.cfg
  · rfl

/-- What a racing command keeps of the state the race began in. -/
theorem race_command_keeps {pick : Nat → Nat} {w : Word} {stores : List (Word × Byte)} {p s u : State}
    (hs : Invariant s) (hu : issueReading p w (raceView pick stores s) = .next u) :
    u.cfg = s.cfg ∧ Memory.wf u.mem = true := by
  have hcfg : u.cfg = (raceView pick stores s).cfg := issueReading_cfg hu
  exact ⟨hcfg, (issueReading_invariant hu (hs.raceView pick stores)).mem.canonical⟩

/-- The step that takes a racing CMD write is a race under the picks of its draw. -/
theorem step_of_cmdRaced_picks {s : State} {w : Word} {stores : List (Word × Byte)} {rest : List Input}
    (hin : s.inputs = .cmdRaced w stores :: rest) (hmapped : ∀ x ∈ stores, MappedAt s.cfg x.1.toNat) :
    ∃ pick : Nat → Nat, step s = raceWith pick w stores { s with inputs := rest } :=
  ⟨Config.racePick s.draws, step_of_cmdRaced hin fun x hx =>
    (mappedRegion_iff (.inl Nat.one_pos)).2 ((mappedAll_one_iff _ _).2 (hmapped x hx))⟩

section
variable {pick : Nat → Nat} {w : Word} {stores : List (Word × Byte)} {s u : State} {a : Nat}

theorem byteAt_raceLeft_other (h : racedValues stores a = []) : (raceLeft pick w stores s u).byteAt a = u.byteAt a := by
  refine byteAt_storePicked_other rfl (racedEnd_eq_storePicked pick w _ u stores _ _ _) (.inr fun x hx hxa => ?_)
  exact (racedValues_ne_nil stores a).2 ⟨x, hx, hxa⟩ h

/-- A racing byte ends with the pick among the values stored to it and the command's own. -/
theorem byteAt_raceLeft_same (hwf : Memory.wf u.mem = true) (hr : reservedByte u.cfg a = false)
    (h : racedValues stores a ≠ []) :
    ∃ k x, stores[k]? = some x ∧ x.1.toNat = a ∧
      (raceLeft pick w stores s u).byteAt a =
        pickByte pick (2 * stores.length + k) x.2 (valuesLeft w (raceView pick stores s) u stores x.1.toNat) :=
  byteAt_storePicked_same (s := u) (t := raceLeft pick w stores s u) rfl
    (racedEnd_eq_storePicked pick w _ u stores _ _ _) hwf hr ((racedValues_ne_nil stores a).1 h)

theorem mem_valuesLeft {view : State} {b : Byte} :
    b ∈ valuesLeft w view u stores a ↔
      b ∈ racedValues stores a ∨ (commandStores w view u a = true ∧ b = u.byteAt a) := by
  simp only [valuesLeft, List.mem_append, List.mem_ite_nil_right, List.mem_singleton]

end

/-- Settles O54, byte by byte: a pick is one of the values there are to pick from (`pickByte_mem`). -/
theorem raceOutcomesAreBounded : Obligations.RaceOutcomesAreBounded := by
  refine ⟨fun _ _ _ _ => step_of_cmdRaced_picks, fun pick w stores s t hs ht => ?_⟩
  obtain ⟨u, hu, rfl⟩ := raceWith_cases ht
  have hinv := (inv_iff s).1 hs
  have hwf := hinv.mem.canonical
  obtain ⟨hcfg, huwf⟩ := race_command_keeps hinv hu
  refine ⟨raceView pick stores s, racePayload pick stores s, u, rfl, rfl, byteAt_racedView rfl rfl hwf,
    byteAt_racedView rfl rfl hwf, hu, rfl, fun y => ⟨byteAt_raceLeft_other, fun hraced hr => ?_⟩⟩
  rw [← hcfg] at hr
  obtain ⟨k, x, hx, rfl, hbyte⟩ := byteAt_raceLeft_same huwf hr hraced
  rw [hbyte, ← mem_valuesLeft]
  have hown : x.2 ∈ valuesLeft w (raceView pick stores s) u stores x.1.toNat :=
    mem_valuesLeft.2 (.inl (mem_racedValues (List.mem_of_getElem? hx)))
  rcases List.mem_cons.1 (pickByte_mem pick (2 * stores.length + k) x.2 _) with hfirst | hlater
  · rwa [hfirst]
  · exact hlater

/-! ## Picks for a given outcome -/

/-- The picks of a race, given store by store: for the first reads, for the second reads, for what is left. -/
def picksOf (stores : List (Word × Byte)) (first second left : Word × Byte → Nat) (j : Nat) : Nat :=
  (stores.map first ++ (stores.map second ++ stores.map left)).getD j 0

section
variable {stores : List (Word × Byte)} {first second left : Word × Byte → Nat} {k : Nat} {x : Word × Byte}

theorem picksOf_first (h : stores[k]? = some x) : picksOf stores first second left (0 + k) = first x := by
  obtain ⟨hk, rfl⟩ := List.getElem?_eq_some_iff.1 h
  simp [picksOf, List.getElem?_append, hk]

theorem picksOf_second (h : stores[k]? = some x) :
    picksOf stores first second left (stores.length + k) = second x := by
  obtain ⟨hk, rfl⟩ := List.getElem?_eq_some_iff.1 h
  simp [picksOf, List.getElem?_append, hk]

theorem picksOf_left (h : stores[k]? = some x) :
    picksOf stores first second left (2 * stores.length + k) = left x := by
  simp [picksOf, Nat.two_mul, Nat.add_assoc, List.getElem?_append, h]

/-- The picks for what is left play no part in what is read. -/
theorem raceView_picksOf (left' : Word × Byte → Nat) (s : State) :
    raceView (picksOf stores first second left') stores s = raceView (picksOf stores first second left) stores s := by
  have hmem := racedView_congr (stores := stores) (pick := picksOf stores first second left)
    (pick' := picksOf stores first second left') (j := 0) s s.mem fun k hk => by
      simp only [picksOf_first (List.getElem?_eq_getElem hk)]
  simp only [raceView, hmem]

theorem racePayload_picksOf (left' : Word × Byte → Nat) (s : State) :
    racePayload (picksOf stores first second left') stores s =
      racePayload (picksOf stores first second left) stores s := by
  have hmem := racedView_congr (stores := stores) (pick := picksOf stores first second left)
    (pick' := picksOf stores first second left') (j := stores.length) s s.mem fun k hk => by
      simp only [picksOf_second (List.getElem?_eq_getElem hk)]
  simp only [racePayload, hmem]

end

/-- The position of the value to be left where x is stored, among the values that can be left. -/
def leftPick (w : Word) (view u : State) (stores : List (Word × Byte)) (endValue : Nat → Byte) (x : Word × Byte) :
    Nat :=
  (x.2 :: valuesLeft w view u stores x.1.toNat).idxOf (endValue x.1.toNat)

/-- For the outcome of a command on its reads in view and p and any choice of what is left, last picks end the race in
it. -/
theorem race_leaves_chosen {w : Word} {stores : List (Word × Byte)} {first second : Word × Byte → Nat}
    {s p view u : State} {endValue : Nat → Byte} (hs : Invariant s)
    (hview : ∀ left, raceView (picksOf stores first second left) stores s = view)
    (hpayload : ∀ left, racePayload (picksOf stores first second left) stores s = p)
    (hu : issueReading p w view = .next u)
    (hend : ∀ x ∈ stores, endValue x.1.toNat ∈ valuesLeft w view u stores x.1.toNat) :
    ∃ left t, raceWith (picksOf stores first second left) w stores s = .next t ∧
      ∀ x ∈ stores, reservedByte s.cfg x.1.toNat = false → t.byteAt x.1.toNat = endValue x.1.toNat := by
  have hreads : ∀ left, issueReading (racePayload (picksOf stores first second left) stores s) w
      (raceView (picksOf stores first second left) stores s) = .next u := fun left => by
    rw [hpayload, hview, hu]
  refine ⟨leftPick w view u stores endValue, _, raceWith_of_next (hreads _), fun x hx hr => ?_⟩
  obtain ⟨hcfg, hwf⟩ := race_command_keeps hs (hreads fun _ => 0)
  rw [← hcfg] at hr
  obtain ⟨k, y, hy, hyx, hbyte⟩ := byteAt_raceLeft_same hwf hr ((racedValues_ne_nil _ _).2 ⟨x, hx, rfl⟩)
  rw [hbyte, ← hyx, hview]
  exact pickByte_idxOf (List.mem_cons_of_mem _ (hend y (List.mem_of_getElem? hy))) (picksOf_left hy)

/-- Settles O55: the picks are the positions of the values asked for, first those read (`readPick`), then, for the
outcome of the command on those reads, those left (`leftPick`). -/
theorem raceAdmitsEveryOutcome : Obligations.RaceAdmitsEveryOutcome := by
  refine ⟨fun _ _ _ _ => step_of_cmdRaced_picks, fun w stores s readValue secondValue hs hread hsecond => ?_⟩
  have hinv := (inv_iff s).1 hs
  have hwf := hinv.mem.canonical
  refine ⟨picksOf stores (readPick s stores readValue) (readPick s stores secondValue) fun _ => 0,
    fun x hx hr => ⟨?_, ?_⟩, fun u endValue hu hend => ?_⟩
  · exact byteAt_racedView_picked (s := s) (t := raceView _ stores s) rfl rfl hwf
      (fun y hy => List.mem_cons.2 (hread y hy)) (fun _ _ => picksOf_first) hx hr
  · exact byteAt_racedView_picked (s := s) (t := racePayload _ stores s) rfl rfl hwf
      (fun y hy => List.mem_cons.2 (hsecond y hy)) (fun _ _ => picksOf_second) hx hr
  · obtain ⟨left', t, ht, hleft⟩ := race_leaves_chosen hinv (raceView_picksOf · s) (racePayload_picksOf · s) hu
      fun x hx => mem_valuesLeft.2 (hend x hx)
    exact ⟨_, t, raceView_picksOf left' s, racePayload_picksOf left' s, ht, hleft⟩

end Sys2Proof.Machine
